-- ==== Sys2Proof/Word.lean ====
section
/-! DEFINITION. The widths of the block's data: 32-bit registers, 4-bit digit fields, 5-bit entropy answers. -/

namespace Sys2Proof

/-- A register, a bus datum, a command word or a character code: 32 bits (00_scope.md R5 `REG_WIDTH`, R8). -/
abbrev Word := BitVec 32

/-- A 4-bit field: one EXP digit (10_state.md R29) or STATUS.CODE (R27). -/
abbrev Nibble := BitVec 4

/-- An answer of the entropy port: 5 bits (43_id_generator.md R170). -/
abbrev Answer := BitVec 5

end Sys2Proof
end

