-- ==== Sys2Proof/Syntax.lean ====
section
/-! DEFINITION. The six commands, one constructor per row of spec/opcode_table.json (30_encoding.md R81).
A command has no operand fields: its operands are fixed registers (R80, R84). -/

namespace Sys2Proof

/-- The commands of 30_encoding.md R81. -/
inductive Instr where
  | lookup    -- 0x00000001, 40_encoding_table_lut.md R102
  | wsum      -- 0x00000002, 41_checksum_engine.md R123
  | check     -- 0x00000003, 41_checksum_engine.md R124
  | solve     -- 0x00000004, 41_checksum_engine.md R125
  | validate  -- 0x00000005, 42_validation.md R150
  | generate  -- 0x00000006, 43_id_generator.md R172
deriving DecidableEq, Repr

end Sys2Proof
end

