-- ==== Sys2Proof/WellFormed.lean ====
section
/-! DEFINITION. The one command format, CMD, as fields, and which field values are a command (30_encoding.md R80, R82).
`Instr` itself has no fields, so there is nothing to check in it: what can be ill-formed is the word. -/

namespace Sys2Proof

/-- The fields of format CMD (30_encoding.md R80). -/
structure CommandWord where
  /-- Bits 3:0, selects the command. -/
  opc : Nibble
  /-- Bits 31:4, must be zero. -/
  mbz : BitVec 28
deriving DecidableEq, Repr

/-- MBZ is zero and OPC names one of the six commands (30_encoding.md R82). -/
def CommandWord.wellFormed (c : CommandWord) : Bool :=
  c.mbz == 0 && decide (1 ≤ c.opc.toNat) && decide (c.opc.toNat ≤ 6)

end Sys2Proof
end

