-- ==== Sys2Proof/Decode.lean ====
section
/-! DEFINITION. From a command word to a command and back (30_encoding.md R80 to R83). -/

namespace Sys2Proof

/-- Why a word is no command; either way the perform step raises ERR_OPC (30_encoding.md R82). -/
inductive DecodeError where
  /-- A bit of 31:4 is set. -/
  | mbzNonzero
  /-- OPC is 0 or above 6. -/
  | opcUndefined
deriving DecidableEq, Repr

/-- The fields of a command word (30_encoding.md R80). -/
def fieldsOf (w : Word) : CommandWord :=
  { opc := w.extractLsb' 0 4, mbz := w.extractLsb' 4 28 }

/-- The word with these fields. -/
def CommandWord.word (c : CommandWord) : Word := c.mbz ++ c.opc

/-- The decoder of 30_encoding.md R82. -/
def decode (w : Word) : Except DecodeError Instr :=
  if (fieldsOf w).mbz = 0 then
    match (fieldsOf w).opc.toNat with
    | 1 => .ok .lookup
    | 2 => .ok .wsum
    | 3 => .ok .check
    | 4 => .ok .solve
    | 5 => .ok .validate
    | 6 => .ok .generate
    | _ => .error .opcUndefined
  else .error .mbzNonzero

/-- OPC of each command (30_encoding.md R81). -/
def Instr.opcode : Instr → Nibble
  | .lookup => 1
  | .wsum => 2
  | .check => 3
  | .solve => 4
  | .validate => 5
  | .generate => 6

/-- The command word of each command: OPC below 28 zero bits (30_encoding.md R80, R81). -/
def encode (i : Instr) : Word := CommandWord.word { opc := i.opcode, mbz := 0 }

/-- What the decoder reads from a table row's bits; every row has 32 (spec/opcode_table.json), and a number that
does not fit in the command register is no command word. -/
def decodeTableWord (nbits w : Nat) : Option Instr :=
  if nbits ≤ 32 ∧ w < 2 ^ 32 then (decode (BitVec.ofNat 32 w)).toOption else none

end Sys2Proof
end

