-- ==== Sys2Proof/Config.lean ====
section
/-! DEFINITION. The OPEN parameters of 00_scope.md R5 and the fixed ones the model names.
An opaque constant has no body: nothing can be proved of its value, so a claim holds for every value. -/

namespace Sys2Proof.Config

/-- The size of the register window in bytes: `WINDOW` of 00_scope.md R5, 20_memory.md R50. -/
def window : Nat := 0x80

/-- Which multiple of `WINDOW` the platform puts the window at (OPEN, 20_memory.md R50; log 6). -/
opaque baseBlock : Nat

/-- `BASE`, the window's first byte address: a multiple of 0x80 (20_memory.md R50; log 6). -/
def base : Nat := window * baseBlock

/-- `CMD_LATENCY`, the cycles from issue to commit (OPEN, 00_scope.md R5).
The model has no clock and nothing in it depends on this (70_reset_and_hazards.md R239; log 9). -/
opaque cmdLatency : Nat

end Sys2Proof.Config
end

