-- ==== Sys2Proof/Machine/State.lean ====
section
/-! DEFINITION. The block's state as plain data, the events the outside world delivers, the reasons to stop, and reset. -/

namespace Sys2Proof.Machine

/-- No constructor: nothing in the spec stops the block.
A command error and a protocol error are next states (60_exceptions.md R200, R202; log 7). -/
inductive Fault where
deriving DecidableEq, Repr

/-- The reasons the model gives no next state. -/
inductive Refusal where
  /-- Raised by `exec` for a command that has no meaning yet, by its mnemonic; safe.  No arm raises it. -/
  | notModelled (mnemonic : String)
  /-- Raised by `deliver` for a bus access while `rst` is asserted, whose response is undefined
  (70_reset_and_hazards.md R230, 93_implementation_defined.md item 13; log 8); safe. -/
  | accessDuringReset
deriving DecidableEq, Repr

/-- The registers of the window by name (10_state.md R20). -/
inductive Reg where
  | cmd
  | status
  | result
  | expLo
  | expHi
  | len
  | chr (k : Fin 10)
  | out (k : Fin 10)
deriving DecidableEq, Repr

/-- One host access: a byte address, a size in bytes and, for a write, the bus datum (20_memory.md R50 to R55).
A write of another size than 4 is never accepted, so its datum is never used. -/
inductive Access where
  | read (addr size : Nat)
  | write (addr size : Nat) (value : Word)
deriving DecidableEq, Repr

/-- The block's answer on the bus (20_memory.md R51 to R55); a write is answered by `err` alone. -/
inductive BusResponse where
  | read (err : Bool) (data : Word)
  | write (err : Bool)
deriving DecidableEq, Repr

/-- The three ranges a draw can ask for (43_id_generator.md R170). -/
inductive DrawRange where
  /-- R = 26: a letter. -/
  | letter
  /-- R = 2: a category digit. -/
  | category
  /-- R = 10: a digit. -/
  | digit
deriving DecidableEq, Repr

/-- What a sequence of draws comes to with the answers given so far (43_id_generator.md R170, R173). -/
inductive DrawOutcome where
  /-- Every draw is answered in range: the drawn characters. -/
  | drawn (chars : List Word)
  /-- The first draw that has no answer yet. -/
  | waiting (r : DrawRange)
  /-- An answer was not below its range: ERR_ENTROPY. -/
  | outOfRange
deriving DecidableEq, Repr

/-- What the outside world delivers, one event at a time, in the total order of 20_memory.md R58. -/
inductive Event where
  /-- A host access on the bus. -/
  | access (a : Access)
  /-- The moment the block takes its turn: a Perform step if one is enabled (R57), or its next entropy request. -/
  | blockTurn
  /-- The entropy source answers the `n`-th request the block has sent (43_id_generator.md R170; log 18). -/
  | answer (n : Nat) (v : Answer)
  /-- `rst`, one atomic event (70_reset_and_hazards.md R230). -/
  | reset
  /-- A bus access while `rst` is asserted: the platform must not issue it (R230; log 8). -/
  | accessInReset (a : Access)
deriving DecidableEq, Repr

/-- Everything the spec gives the block (10_state.md R20 to R35), and below the line the model's own fields. -/
structure State where
  /-- STATUS.BUSY (R23). -/
  busy : Bool
  /-- STATUS.DONE (R24). -/
  done : Bool
  /-- STATUS.FAULT (R25). -/
  fault : Bool
  /-- STATUS.PROTO (R26). -/
  proto : Bool
  /-- STATUS.CODE (R27). -/
  code : Nibble
  /-- RESULT (R28). -/
  result : Word
  /-- EXP[0..10] (R29). -/
  exp : Vector Nibble 11
  /-- LEN (R30). -/
  len : Word
  /-- CHR[0..9] (R31). -/
  chr : Vector Word 10
  /-- OUT[0..9] (R32). -/
  out : Vector Word 10
  /-- PENDING, the latched command word (R33, R35 a). -/
  pending : Word
  /-- The entropy request in flight (R35 b). -/
  request : Option DrawRange
  /-- Model: how many entropy requests the block has sent; the request in flight is the last of them (log 18). -/
  sent : Nat
  /-- Model: the answers the port has given to the command in flight, oldest first (43_id_generator.md R170; log 3). -/
  answers : List Answer
  /-- Model: every value drawn so far, oldest first (the observation of 70_reset_and_hazards.md R241; log 4). -/
  drawn : List Answer
  /-- Model: the bus's answer to the last access to the window (20_memory.md R51 to R55; log 5). -/
  response : Option BusResponse
  /-- Model: the events to come, next first (20_memory.md R58; log 1). -/
  inbox : List Event
deriving DecidableEq, Repr

/-- The block right after reset: every register 0 (70_reset_and_hazards.md R231), PENDING 0 (R230), no request in flight
(R232).  The model's own fields start empty, or at 0 (log 1, 3, 4, 5, 18). -/
def State.reset : State :=
  { busy := false, done := false, fault := false, proto := false, code := 0, result := 0,
    exp := Vector.replicate 11 0, len := 0, chr := Vector.replicate 10 0, out := Vector.replicate 10 0,
    pending := 0, request := none, sent := 0, answers := [], drawn := [], response := none, inbox := [] }

/-- The outcome of one step of this machine. -/
abbrev Result := Host.Outcome State Fault Refusal

end Sys2Proof.Machine
end

