-- ==== Sys2Proof/Machine/Flags.lean ====
section
/-! DEFINITION. STATUS: the result codes (60_exceptions.md R201) and the word a read returns (10_state.md R22). -/

namespace Sys2Proof.Machine

/-- The command errors of 60_exceptions.md R201. -/
inductive CmdError where
  | opc
  | letter
  | digit
  | prefixLen
  | prefixShape
  | entropy
deriving DecidableEq, Repr

/-- CODE of a success: OK (60_exceptions.md R201). -/
def okCode : Nibble := 0

/-- CODE of each error (60_exceptions.md R201). -/
def CmdError.code : CmdError → Nibble
  | .opc => 1
  | .letter => 2
  | .digit => 3
  | .prefixLen => 4
  | .prefixShape => 5
  | .entropy => 6

/-- STATUS as a read returns it: `{20'b0, CODE, 4'b0, PROTO, FAULT, DONE, BUSY}` (20_memory.md R52, 10_state.md R22). -/
def State.statusWord (s : State) : Word :=
  0#20 ++ s.code ++ 0#4 ++ BitVec.ofBool s.proto ++ BitVec.ofBool s.fault ++ BitVec.ofBool s.done ++ BitVec.ofBool s.busy

end Sys2Proof.Machine
end

