-- ==== Sys2Proof/Machine/Operands.lean ====
section
/-! DEFINITION. Operand assembly (30_encoding.md R85): EXP packing, character classes, result packing. -/

namespace Sys2Proof.Machine

/-- The 4-bit field of bits `4i+3 : 4i` (10_state.md R29). -/
def fieldOf (v : Word) (i : Nat) : Nibble := v.extractLsb' (4 * i) 4

/-- EXP_LO as a read returns it (20_memory.md R52). -/
def packLo (e : Vector Nibble 11) : Word :=
  e[7] ++ e[6] ++ e[5] ++ e[4] ++ e[3] ++ e[2] ++ e[1] ++ e[0]

/-- EXP_HI as a read returns it, its reserved bits 0 (20_memory.md R52). -/
def packHi (e : Vector Nibble 11) : Word :=
  0#20 ++ e[10] ++ e[9] ++ e[8]

/-- A write of EXP_LO replaces EXP[0..7] (20_memory.md R53). -/
def unpackLo (v : Word) (e : Vector Nibble 11) : Vector Nibble 11 :=
  #v[fieldOf v 0, fieldOf v 1, fieldOf v 2, fieldOf v 3, fieldOf v 4, fieldOf v 5, fieldOf v 6, fieldOf v 7,
     e[8], e[9], e[10]]

/-- A write of EXP_HI replaces EXP[8..10] and ignores bits 31:12 (20_memory.md R53). -/
def unpackHi (v : Word) (e : Vector Nibble 11) : Vector Nibble 11 :=
  #v[e[0], e[1], e[2], e[3], e[4], e[5], e[6], e[7], fieldOf v 0, fieldOf v 1, fieldOf v 2]

/-- `isUpper(c)`: all 32 bits take part (00_scope.md R8). -/
def isUpper (c : Word) : Bool := decide (0x41 ≤ c.toNat) && decide (c.toNat ≤ 0x5A)

/-- `isDigit(c)` (00_scope.md R8). -/
def isDigit (c : Word) : Bool := decide (0x30 ≤ c.toNat) && decide (c.toNat ≤ 0x39)

/-- `digitVal(c) = c - 0x30`, asked only where `isDigit(c)` holds (00_scope.md R8). -/
def digitVal (c : Word) : Nat := c.toNat - 0x30

/-- The character code of a digit 0 to 9 (43_id_generator.md R172: `0x30 + d`). -/
def digitChar (d : Nat) : Word := BitVec.ofNat 32 (0x30 + d)

/-- A truth value as a result, 1 or 0, zero-extended (30_encoding.md R85). -/
def boolWord (b : Bool) : Word := if b then 1 else 0

/-- The digits EXP[0..n-1] as numbers (30_encoding.md R85). -/
def State.expDigits (s : State) (n : Nat) : List Nat := (s.exp.toList.take n).map BitVec.toNat

end Sys2Proof.Machine
end

