-- ==== Sys2Proof/Machine/Ops.lean ====
section
/-! DEFINITION. The shared operations: the two commits, the issue, the entropy port, reset, and the registers of the window. -/

namespace Sys2Proof.Machine

/-! ## Commits (60_exceptions.md R202, R203)

A commit ends the command, so no entropy request of it stays in flight and its answers are used up (log 3). -/

/-- The state after `Complete(r)` (60_exceptions.md R203). -/
def State.completed (s : State) (r : Word) : State :=
  { s with result := r, code := okCode, busy := false, done := true, request := none, answers := [] }

/-- The state after `raise CmdError(code)`, the block's exception entry (60_exceptions.md R202).
Control goes nowhere and nothing returns from it: the block is idle and takes the next command (R206). -/
def State.failed (s : State) (e : CmdError) : State :=
  { s with result := 0, code := e.code, fault := true, busy := false, done := true, request := none, answers := [] }

/-- `Complete(r)`. -/
def complete (r : Word) (s : State) : Result := .next (s.completed r)

/-- `raise CmdError(code)`. -/
def raiseError (e : CmdError) (s : State) : Result := .next (s.failed e)

/-! ## Single-field updates -/

/-- The answer the block gives on the bus (20_memory.md R51 to R55; log 5). -/
def State.respond (s : State) (b : BusResponse) : State := { s with response := some b }

/-- OUT[0..9], all ten at once (43_id_generator.md R176). -/
def State.withOut (s : State) (o : Vector Word 10) : State := { s with out := o }

/-- Other events to come (20_memory.md R58; log 1). -/
def State.withInbox (s : State) (l : List Event) : State := { s with inbox := l }

/-! ## Issue, entropy port, reset -/

/-- An accepted CMD write: the whole word is latched, whatever it is (20_memory.md R53, 10_state.md R33). -/
def State.issued (s : State) (v : Word) : State :=
  { s with pending := v, busy := true, done := false }

/-- The block sends a request for one draw and waits; a request in flight stays as it is (43_id_generator.md R170). -/
def State.requested (s : State) (r : DrawRange) : State :=
  match s.request with
  | none => { s with request := some r, sent := s.sent + 1 }
  | some _ => s

/-- The source answers the `n`-th request sent.  If that one is in flight the answer is taken and counts as drawn; if it is not,
because `rst` withdrew it or it has had its answer, the answer is ignored, whichever request is in flight now
(43_id_generator.md R170, 70_reset_and_hazards.md R232; log 3, 18). -/
def State.answered (s : State) (n : Nat) (v : Answer) : State :=
  match s.request with
  | none => s
  | some _ => if n = s.sent then { s with request := none, answers := s.answers ++ [v], drawn := s.drawn ++ [v] } else s

/-- `rst`: everything of the block at its reset value; a command in flight is gone without a commit, its request withdrawn
(70_reset_and_hazards.md R230 to R232).  Values drawn stay drawn, requests sent stay sent, and the events to come are the outside world's. -/
def State.afterRst (s : State) : State :=
  { State.reset with sent := s.sent, drawn := s.drawn, inbox := s.inbox }

/-! ## The registers of the window (10_state.md R20) -/

/-- The offset of each register (10_state.md R20). -/
def Reg.offset : Reg → Nat
  | .cmd => 0x00
  | .status => 0x04
  | .result => 0x08
  | .expLo => 0x0C
  | .expHi => 0x10
  | .len => 0x14
  | .chr k => 0x18 + 4 * k.val
  | .out k => 0x40 + 4 * k.val

/-- The register at an aligned offset, none where the window is unmapped (10_state.md R20, 20_memory.md R55). -/
def regAt (off : Nat) : Option Reg :=
  if off = 0x00 then some .cmd
  else if off = 0x04 then some .status
  else if off = 0x08 then some .result
  else if off = 0x0C then some .expLo
  else if off = 0x10 then some .expHi
  else if off = 0x14 then some .len
  else if off < 0x40 then some (.chr (Fin.ofNat 10 ((off - 0x18) / 4)))
  else if off < 0x68 then some (.out (Fin.ofNat 10 ((off - 0x40) / 4)))
  else none

/-- The registers a host write may not target (20_memory.md R54 b). -/
def Reg.readOnly : Reg → Bool
  | .status => true
  | .result => true
  | .out _ => true
  | .cmd => false
  | .expLo => false
  | .expHi => false
  | .len => false
  | .chr _ => false

/-- What an accepted read returns (20_memory.md R52). -/
def State.readReg (s : State) : Reg → Word
  | .cmd => 0
  | .status => s.statusWord
  | .result => s.result
  | .expLo => packLo s.exp
  | .expHi => packHi s.exp
  | .len => s.len
  | .chr k => s.chr[k]
  | .out k => s.out[k]

/-- What an accepted write while idle does (20_memory.md R53); a read-only register is never written (R54 b). -/
def State.writeReg (s : State) (v : Word) : Reg → State
  | .cmd => s.issued v
  | .status => s
  | .result => s
  | .expLo => { s with exp := unpackLo v s.exp }
  | .expHi => { s with exp := unpackHi v s.exp }
  | .len => { s with len := v }
  | .chr k => { s with chr := s.chr.set k v }
  | .out _ => s

end Sys2Proof.Machine
end

