-- ==== Sys2Proof/Machine/Checksum.lean ====
section
/-! DEFINITION. The checksum engine: WSUM, CHECK and SOLVE (41_checksum_engine.md). -/

namespace Sys2Proof.Machine

/-- The weight vector `W[0..10]` (41_checksum_engine.md R120). -/
def weights : List Nat := [1, 9, 8, 7, 6, 5, 4, 3, 2, 1, 1]

/-- The sum of `e[i] * W[i]` over the positions of `e`: `WS` of 11 digits, `PS` of 10 (41_checksum_engine.md R121). -/
def weightedSum (e : List Nat) : Nat := (List.zipWith (fun d w => d * w) e weights).sum

/-- The sum in the 16-bit accumulator, zero-extended: `zext_32(s[15:0])` (41_checksum_engine.md R121, R123). -/
def sumWord (s : Nat) : Word := (BitVec.ofNat 16 s).setWidth 32

/-- `s mod 10 = 0` (41_checksum_engine.md R124). -/
def passes (s : Nat) : Bool := s % 10 == 0

/-- The check digit for a partial sum `p`: `(10 - (p mod 10)) mod 10` (41_checksum_engine.md R125). -/
def checkDigit (p : Nat) : Nat := (10 - p % 10) % 10

/-- `DigitCheck`: the first `n` fields of EXP are digits (41_checksum_engine.md R122). -/
def State.digitsOk (s : State) (n : Nat) : Bool := (s.expDigits n).all (fun d => decide (d ≤ 9))

/-- A checksum command: DigitCheck of the first `n` fields, then the result of their weighted sum (R122 to R125). -/
def withDigits (n : Nat) (f : Nat → Word) (s : State) : Result :=
  if s.digitsOk n then complete (f (weightedSum (s.expDigits n))) s
  else raiseError .digit s

/-- WSUM (41_checksum_engine.md R123). -/
def execWsum (s : State) : Result := withDigits 11 sumWord s

/-- CHECK (41_checksum_engine.md R124). -/
def execCheck (s : State) : Result := withDigits 11 (fun w => boolWord (passes w)) s

/-- SOLVE: EXP[10] is neither read nor checked (41_checksum_engine.md R125). -/
def execSolve (s : State) : Result := withDigits 10 (fun p => BitVec.ofNat 32 (checkDigit p)) s

end Sys2Proof.Machine
end

