-- ==== Sys2Proof/Machine/EncodingTable.lean ====
section
/-! DEFINITION. `encoding_table_lut` and LOOKUP (40_encoding_table_lut.md). -/

namespace Sys2Proof.Machine

/-- The 26-entry ROM of 8-bit BCD words `{t, u}`, from A to Z (40_encoding_table_lut.md R100, R103). -/
def encodingRom : List (BitVec 8) :=
  [0x10, 0x11, 0x12, 0x13, 0x14, 0x15, 0x16, 0x17, 0x34,   -- A to I
   0x18, 0x19, 0x20, 0x21, 0x22, 0x35, 0x23, 0x24, 0x25,   -- J to R
   0x26, 0x27, 0x28, 0x29, 0x32, 0x30, 0x31, 0x33]         -- S to Z

/-- The ROM index of a letter: `c[4:0] - 1` (40_encoding_table_lut.md R103). -/
def romIndex (c : Word) : Nat := (c.extractLsb' 0 5).toNat - 1

/-- The ROM word of a letter.  Asked only where `isUpper(c)` holds, so the index is below 26 and the 0 is never read
(40_encoding_table_lut.md R103). -/
def romWord (c : Word) : BitVec 8 := encodingRom.getD (romIndex c) 0

/-- `t` of `TABLE(c) = (t, u)`: the tens digit (40_encoding_table_lut.md R100). -/
def tableTens (c : Word) : Nibble := (romWord c).extractLsb' 4 4

/-- `u` of `TABLE(c) = (t, u)`: the units digit (40_encoding_table_lut.md R100). -/
def tableUnits (c : Word) : Nibble := (romWord c).extractLsb' 0 4

/-- LOOKUP (40_encoding_table_lut.md R102). -/
def execLookup (s : State) : Result :=
  let c := s.chr[0]
  if isUpper c then complete ((tableTens c ++ tableUnits c).setWidth 32) s
  else raiseError .letter s

end Sys2Proof.Machine
end

