-- ==== Sys2Proof/Machine/Validation.lean ====
section
/-! DEFINITION. The string validator: VALIDATE (42_validation.md). -/

namespace Sys2Proof.Machine

/-- A letter followed by decimal digits only (42_validation.md R150, R151). -/
def wellShaped : List Word → Bool
  | [] => false
  | c :: ds => isUpper c && ds.all isDigit

/-- `Expand`: the pair of the letter, then the value of each digit (42_validation.md R151). -/
def expand : List Word → List Nat
  | [] => []
  | c :: ds => (tableTens c).toNat :: (tableUnits c).toNat :: ds.map digitVal

/-- VALIDATE: never an error (42_validation.md R150, R152). -/
def execValidate (s : State) : Result :=
  if s.len ≠ 10 then complete 0 s
  else if wellShaped s.chr.toList then complete (boolWord (passes (weightedSum (expand s.chr.toList)))) s
  else complete 0 s

end Sys2Proof.Machine
end

