-- ==== Sys2Proof/Machine/Generator.lean ====
section
/-! DEFINITION. `constrained_id_generator_wrapper`: GENERATE and its draws (43_id_generator.md). -/

namespace Sys2Proof.Machine

/-- The number of values of a range: an answer must be below it (43_id_generator.md R170). -/
def DrawRange.size : DrawRange → Nat
  | .letter => 26
  | .category => 2
  | .digit => 10

/-- The 2-bit range code of the request; 3 is never sent (43_id_generator.md R170). -/
def DrawRange.code : DrawRange → BitVec 2
  | .letter => 0
  | .category => 1
  | .digit => 2

/-- The character of answer 0: `A`, `1` or `0` (43_id_generator.md R172). -/
def DrawRange.firstChar : DrawRange → Nat
  | .letter => 0x41
  | .category => 0x31
  | .digit => 0x30

/-- The character an answer stands for (43_id_generator.md R172). -/
def DrawRange.charOf (r : DrawRange) (v : Answer) : Word := BitVec.ofNat 32 (r.firstChar + v.toNat)

/-- The draws a prefix of `n` characters needs, in order (43_id_generator.md R173). -/
def drawRanges (n : Nat) : List DrawRange :=
  match n with
  | 0 => .letter :: .category :: List.replicate 7 .digit
  | 1 => .category :: List.replicate 7 .digit
  | n + 2 => List.replicate (7 - n) .digit

/-- One more drawn character in front of what the later draws come to. -/
def DrawOutcome.cons (c : Word) : DrawOutcome → DrawOutcome
  | .drawn cs => .drawn (c :: cs)
  | .waiting r => .waiting r
  | .outOfRange => .outOfRange

/-- `Draw` for each range in turn: an answer out of range ends the draws at once (43_id_generator.md R170, R173). -/
def drawAll : List DrawRange → List Answer → DrawOutcome
  | [], _ => .drawn []
  | r :: _, [] => .waiting r
  | r :: rs, v :: vs => if v.toNat < r.size then (drawAll rs vs).cons (r.charOf v) else .outOfRange

/-- The prefix CHR[0..LEN-1], asked only where LEN ≤ 9 (43_id_generator.md R172). -/
def State.prefixChars (s : State) : List Word := s.chr.toList.take s.len.toNat

/-- `PrefixCheck`, in its order: length, letter, digits (43_id_generator.md R171). -/
def prefixError (s : State) : Option CmdError :=
  if s.len.toNat > 9 then some .prefixLen
  else if s.len.toNat = 0 then none
  else if wellShaped s.prefixChars then none
  else some .prefixShape

/-- The ten characters of the ID: the nine slots, then their check digit (43_id_generator.md R172).
There are nine slots and one digit, so the 0 is never read. -/
def finishId (slots : List Word) : Vector Word 10 :=
  let id := slots ++ [digitChar (checkDigit (weightedSum (expand slots)))]
  Vector.ofFn (fun k => id.getD k.val 0)

/-- What the draws of GENERATE come to with the answers given so far. -/
def State.drawState (s : State) : DrawOutcome := drawAll (drawRanges s.len.toNat) s.answers

/-- GENERATE: the prefix checks, then the draws, then one commit that also writes OUT[0..9] (43_id_generator.md R172).
Where a draw has no answer yet the command does not commit: its request is in flight and BUSY stays 1
(20_memory.md R57, 70_reset_and_hazards.md R238; log 3). -/
def execGenerate (s : State) : Result :=
  match prefixError s with
  | some e => raiseError e s
  | none =>
    match s.drawState with
    | .drawn cs => complete 0 (s.withOut (finishId (s.prefixChars ++ cs)))
    | .outOfRange => raiseError .entropy s
    | .waiting r => .next (s.requested r)

end Sys2Proof.Machine
end

