-- ==== Sys2Proof/Machine/Dispatch.lean ====
section
/-! DEFINITION. The meaning of each command, one arm each. -/

namespace Sys2Proof.Machine

def exec (i : Instr) (s : State) : Host.Outcome State Fault Refusal :=
  match i with
  | .lookup => Sys2Proof.Machine.execLookup s
  | .wsum => Sys2Proof.Machine.execWsum s
  | .check => Sys2Proof.Machine.execCheck s
  | .solve => Sys2Proof.Machine.execSolve s
  | .validate => Sys2Proof.Machine.execValidate s
  | .generate => Sys2Proof.Machine.execGenerate s

end Sys2Proof.Machine
end

