-- ==== Sys2Proof/Machine/HostAccess.lean ====
section
/-! DEFINITION. A host access to the window: the checks of 20_memory.md R51 to R56 and the accepted access of R52, R53. -/

namespace Sys2Proof.Machine

/-- The byte address an access starts at (20_memory.md R50). -/
def Access.addr : Access → Nat
  | .read a _ => a
  | .write a _ _ => a

/-- The size of an access in bytes. -/
def Access.size : Access → Nat
  | .read _ n => n
  | .write _ n _ => n

/-- `off = a - BASE` for an address in the window, none outside it (20_memory.md R50). -/
def windowOffset (addr : Nat) : Option Nat :=
  if Config.base ≤ addr ∧ addr < Config.base + Config.window then some (addr - Config.base) else none

/-- The bus's answer to a bad access: `err = 1`, and 0 as the data of a read (20_memory.md R51, R54, R55). -/
def Access.errorResponse : Access → BusResponse
  | .read _ _ => .read true 0
  | .write _ _ _ => .write true

/-- A protocol error: answered with `err = 1`, PROTO set, nothing else changed (20_memory.md R51, R54, R55). -/
def State.protocolError (s : State) (a : Access) : State :=
  State.respond { s with proto := true } a.errorResponse

/-- An access of an accepted shape to a mapped register: a read of any register, a write of a writable one while idle
(20_memory.md R52 to R54; the order is R56). -/
def State.accessReg (s : State) (a : Access) (r : Reg) : State :=
  match a with
  | .read _ _ => s.respond (.read false (s.readReg r))
  | .write _ _ v =>
    if r.readOnly then s.protocolError a
    else if s.busy then s.protocolError a
    else (s.writeReg v r).respond (.write false)

/-- An access at an offset in the window, checked in the order of 20_memory.md R56. -/
def State.accessAt (s : State) (a : Access) (off : Nat) : State :=
  if a.size = 4 ∧ off % 4 = 0 then
    match regAt off with
    | some r => s.accessReg a r
    | none => s.protocolError a
  else s.protocolError a

/-- A host access; outside the window it is not the block's concern (20_memory.md R50; log 10). -/
def hostAccess (a : Access) (s : State) : State :=
  match windowOffset a.addr with
  | some off => s.accessAt a off
  | none => s

/-- Host accesses one after another, with no other event between them (20_memory.md R58). -/
def hostAccesses (as : List Access) (s : State) : State := as.foldl (fun t a => hostAccess a t) s

end Sys2Proof.Machine
end

