-- ==== Sys2Proof/Machine/Perform.lean ====
section
/-! DEFINITION. The block's own step (20_memory.md R57) and what each event of the outside world does (R58). -/

namespace Sys2Proof.Machine

/-- The Perform step: decode PENDING and run the command, or raise ERR_OPC (20_memory.md R57, 30_encoding.md R82). -/
def perform (s : State) : Result :=
  match decode s.pending with
  | .ok i => exec i s
  | .error _ => raiseError .opc s

/-- The block's turn: a busy block performs, an idle one does nothing (20_memory.md R57, 30_encoding.md R89). -/
def blockTurn (s : State) : Result := if s.busy then perform s else .next s

/-- Every draw the command makes is answered: only a GENERATE that gets past its prefix checks can wait
(20_memory.md R57, 70_reset_and_hazards.md R238). -/
def drawsAnswered (s : State) : Bool :=
  match decode s.pending, prefixError s, s.drawState with
  | .ok .generate, none, .waiting _ => false
  | _, _, _ => true

/-- Perform is enabled: BUSY = 1 and every needed draw answered (20_memory.md R57). -/
def performEnabled (s : State) : Bool := s.busy && drawsAnswered s

/-- One event, delivered to the block (20_memory.md R58). -/
def deliver (e : Event) (s : State) : Result :=
  match e with
  | .access a => .next (hostAccess a s)
  | .blockTurn => blockTurn s
  | .answer n v => .next (s.answered n v)
  | .reset => .next s.afterRst
  | .accessInReset _ => .refused .accessDuringReset

/-- With no event to come, only the block is left to move: weak fairness of Perform (70_reset_and_hazards.md R240; log 2). -/
def quietTurn (s : State) : Result := blockTurn s

/-- The command word `w` issued, and the block's turn as the next event (log 12). -/
def State.primed (s : State) (w : Word) : State :=
  (s.issued w).withInbox (.blockTurn :: s.inbox)

end Sys2Proof.Machine
end

