-- ==== Sys2Proof/Machine/Step.lean ====
section
/-! DEFINITION. One step: the next event of the total order of 20_memory.md R58, or the block's own turn. -/

namespace Sys2Proof.Machine

/-- One step of the machine (20_memory.md R58). -/
def step (s : State) : Host.Outcome State Fault Refusal :=
  match s.inbox with
  | [] => quietTurn s
  | e :: rest => deliver e (s.withInbox rest)

/-- `s` with the command word `w` issued, so that the very next step performs it (10_state.md R33; log 12).
Every command has 32 bits, so `nbits` cuts nothing. -/
def State.withFetchWord (s : State) (nbits w : Nat) : State :=
  s.primed (BitVec.ofNat 32 (w % 2 ^ nbits))

end Sys2Proof.Machine
end

