-- ==== Sys2Proof/Machine/HostProgram.lean ====
section
/-! DEFINITION. The host syntax and its pseudo-instructions, as bus accesses (30_encoding.md R86 to R88). -/

namespace Sys2Proof.Machine

/-- One line of a host program (30_encoding.md R86). -/
inductive HostOp where
  | wr (r : Reg) (v : Word)
  | rd (r : Reg)
  | command (i : Instr)
deriving DecidableEq, Repr

/-- The bus access of a line: 4 bytes at the register's address; a mnemonic is `WR CMD, <its word>`
(30_encoding.md R86). -/
def HostOp.access : HostOp → Access
  | .wr r v => .write (Config.base + r.offset) 4 v
  | .rd r => .read (Config.base + r.offset) 4
  | .command i => .write (Config.base + Reg.cmd.offset) 4 (encode i)

/-- A program of plain lines as the events the bus delivers. -/
def hostEvents (ops : List HostOp) : List Event := ops.map (fun o => .access o.access)

/-- `POLL` whose last read is the one that finds BUSY = 0, after `again` that did not (30_encoding.md R87). -/
def poll (again : Nat) : List HostOp := List.replicate (again + 1) (.rd .status)

/-- What ends a `POLL`: bit 0 (BUSY) of the value read is 0 (30_encoding.md R87). -/
def pollEnds (status : Word) : Bool := !status.getLsbD 0

/-- `CALL <mnemonic>` (30_encoding.md R87). -/
def call (i : Instr) (again : Nat) : List HostOp := .command i :: poll again

/-- `GEN`, the source's `generate()` (30_encoding.md R87, R88). -/
def gen : List HostOp := [.wr .len 0, .command .generate]

/-- `LDSTR "s"`: LEN, then the first ten characters at most (30_encoding.md R87).
DESIGN CHOICE (log 17): for a string of 2^32 or more characters, whose length R86 has no `WR` for, LEN is the length modulo 2^32. -/
def ldstr (cs : List Word) : List HostOp :=
  .wr .len (BitVec.ofNat 32 cs.length) :: (List.finRange 10).filterMap (fun k => cs[k.val]?.map (fun c => .wr (.chr k) c))

/-- `LDEXP [e0, …, e10]` (30_encoding.md R87). -/
def ldexp (e : Vector Nibble 11) : List HostOp := [.wr .expLo (packLo e), .wr .expHi (packHi e)]

/-- `COPYOUT`, for the values `v` its reads of OUT return (30_encoding.md R87). -/
def copyout (v : Vector Word 10) : List HostOp :=
  (List.finRange 10).flatMap (fun k => [.rd (.out k), .wr (.chr k) v[k]]) ++ [.wr .len 10]

end Sys2Proof.Machine
end

