-- ==== Sys2Proof/Safety.lean ====
section
/-! DEFINITION. What a claim may assume of a run and the invariant every step keeps. -/

namespace Sys2Proof.Machine

/-- No error has happened since reset: FAULT = 0 and PROTO = 0 (60_exceptions.md R207). -/
def State.wellBehaved (s : State) : Bool := !s.fault && !s.proto

/-- The host's accesses among the events, those during reset too (20_memory.md R58, 70_reset_and_hazards.md R230). -/
def Event.isAccess : Event → Bool
  | .access _ => true
  | .accessInReset _ => true
  | .blockTurn => false
  | .answer _ _ => false
  | .reset => false

/-- The end of a run: the host has performed its last access and no command is in flight; block's turns, answers and resets may
still come (70_reset_and_hazards.md R241; log 19). -/
def State.runEnded (s : State) : Bool := s.inbox.all (fun e => !e.isAccess) && !s.busy

/-- What a run is observed by: every register the host can read and the values drawn (70_reset_and_hazards.md R241). -/
structure SameObservation (s t : State) : Prop where
  registers : ∀ r : Reg, t.readReg r = s.readReg r
  drawn : t.drawn = s.drawn

/-- No reset and no access during reset is to come. -/
def State.resetFree (s : State) : Bool :=
  s.inbox.all (fun e => match e with
    | .reset => false
    | .accessInReset _ => false
    | .access _ => true
    | .blockTurn => true
    | .answer _ _ => true)

/-- The ten characters are a valid ID: a letter, nine digits and a sum divisible by 10 (42_validation.md R150). -/
def validId (cs : List Word) : Bool :=
  decide (cs.length = 10) && wellShaped cs && passes (weightedSum (expand cs))

/-- The invariant of the block: true at reset and kept by every step. -/
structure State.Inv (s : State) : Prop where
  /-- CODE is one of the seven defined codes (60_exceptions.md R201: 7 to 15 are never written). -/
  code_defined : s.code.toNat ≤ 6
  /-- A nonzero CODE was written by an error commit, so FAULT is set (10_state.md R25, R27). -/
  code_fault : s.code ≠ 0 → s.fault = true
  /-- An error's RESULT is 0 (60_exceptions.md R202). -/
  code_result : s.code ≠ 0 → s.result = 0
  /-- No result is above the largest sum (41_checksum_engine.md R121). -/
  result_bound : s.result.toNat ≤ 423
  /-- DONE is 0 from issue to commit (10_state.md R24). -/
  busy_done : s.busy = true → s.done = false
  /-- Before the first issue everything a commit writes still has its reset value (70_reset_and_hazards.md R231). -/
  fresh : s.busy = false → s.done = false →
    s.code = 0 ∧ s.result = 0 ∧ s.fault = false ∧ s.out = Vector.replicate 10 0
  /-- OUT is still its reset value or holds a valid ID, never a part of one (43_id_generator.md R174, R176). -/
  out_valid : s.out = Vector.replicate 10 0 ∨ validId s.out.toList = true
  /-- The entropy port is used by a GENERATE in flight with a good prefix only (43_id_generator.md R171, 10_state.md R35 b). -/
  port_owner : (s.request ≠ none ∨ s.answers ≠ []) →
    s.busy = true ∧ decode s.pending = .ok .generate ∧ prefixError s = none
  /-- The request in flight is for the first draw with no answer (43_id_generator.md R173). -/
  request_next : ∀ r, s.request = some r → s.drawState = .waiting r
  /-- The last answer was asked for: the ones before it left a draw open (43_id_generator.md R173). -/
  answers_asked : s.answers ≠ [] → ∃ r, drawAll (drawRanges s.len.toNat) s.answers.dropLast = .waiting r
  /-- The answers of the command in flight are the last values drawn. -/
  answers_drawn : s.answers <:+ s.drawn

/-! ## The terms of the claims

Written from the spec's own lists and sums, apart from the definitions the machine computes with. -/

/-- What a success commit with result `r` and OUT `o` leaves in every register (60_exceptions.md R203, 30_encoding.md R84). -/
structure CommitsOk (s t : State) (r : Word) (o : Vector Word 10) : Prop where
  result : t.result = r
  code : t.code = 0
  busy : t.busy = false
  done : t.done = true
  out : t.out = o
  fault : t.fault = s.fault
  proto : t.proto = s.proto
  exp : t.exp = s.exp
  len : t.len = s.len
  chr : t.chr = s.chr
  pending : t.pending = s.pending

/-- What an error commit with this code leaves in every register (60_exceptions.md R202). -/
structure CommitsError (s t : State) (code : Nibble) : Prop where
  result : t.result = 0
  code : t.code = code
  fault : t.fault = true
  busy : t.busy = false
  done : t.done = true
  out : t.out = s.out
  proto : t.proto = s.proto
  exp : t.exp = s.exp
  len : t.len = s.len
  chr : t.chr = s.chr
  pending : t.pending = s.pending

/-- The source's list of two-digit codes, from A to Z (40_encoding_table_lut.md R100). -/
def letterCodes : List Nat :=
  [10, 11, 12, 13, 14, 15, 16, 17, 34, 18, 19, 20, 21, 22, 35, 23, 24, 25, 26, 27, 28, 29, 32, 30, 31, 33]

/-- `WS` of the expansion buffer, written out (41_checksum_engine.md R120, R121). -/
def expSum (e : Vector Nibble 11) : Nat :=
  e[0].toNat * 1 + e[1].toNat * 9 + e[2].toNat * 8 + e[3].toNat * 7 + e[4].toNat * 6 + e[5].toNat * 5 + e[6].toNat * 4
    + e[7].toNat * 3 + e[8].toNat * 2 + e[9].toNat * 1 + e[10].toNat * 1

/-- `PS` of the expansion buffer, written out (41_checksum_engine.md R120, R121). -/
def expPartialSum (e : Vector Nibble 11) : Nat :=
  e[0].toNat * 1 + e[1].toNat * 9 + e[2].toNat * 8 + e[3].toNat * 7 + e[4].toNat * 6 + e[5].toNat * 5 + e[6].toNat * 4
    + e[7].toNat * 3 + e[8].toNat * 2 + e[9].toNat * 1

/-- `PS` of the expansion of an ID's first nine characters, written out (42_validation.md R151, 41_checksum_engine.md R121). -/
def idPartialSum (cs : Vector Word 10) : Nat :=
  let code := letterCodes.getD (cs[0].toNat - 0x41) 0
  code / 10 * 1 + code % 10 * 9 + (cs[1].toNat - 0x30) * 8 + (cs[2].toNat - 0x30) * 7 + (cs[3].toNat - 0x30) * 6
    + (cs[4].toNat - 0x30) * 5 + (cs[5].toNat - 0x30) * 4 + (cs[6].toNat - 0x30) * 3 + (cs[7].toNat - 0x30) * 2
    + (cs[8].toNat - 0x30) * 1

/-- `WS` of the expansion of an ID's ten characters, written out. -/
def idSum (cs : Vector Word 10) : Nat := idPartialSum cs + (cs[9].toNat - 0x30) * 1

/-- An uppercase letter's code (00_scope.md R8). -/
def UpperCode (c : Word) : Prop := 0x41 ≤ c.toNat ∧ c.toNat ≤ 0x5A

/-- A decimal digit's code (00_scope.md R8). -/
def DigitCode (c : Word) : Prop := 0x30 ≤ c.toNat ∧ c.toNat ≤ 0x39

/-- CHR[0..LEN-1] is a prefix GENERATE takes (43_id_generator.md R171). -/
structure GoodPrefix (s : State) : Prop where
  length : s.len.toNat ≤ 9
  letter : 1 ≤ s.len.toNat → UpperCode s.chr[0]
  digits : ∀ k : Fin 10, 1 ≤ k.val → k.val < s.len.toNat → DigitCode s.chr[k]

/-- The range drawn for character position `k` (43_id_generator.md R172). -/
def slotRange (k : Nat) : DrawRange := if k = 0 then .letter else if k = 1 then .category else .digit

/-- How many values that range has. -/
def slotSize (k : Nat) : Nat := if k = 0 then 26 else if k = 1 then 2 else 10

/-- The character of answer 0 there. -/
def slotFirst (k : Nat) : Nat := if k = 0 then 0x41 else if k = 1 then 0x31 else 0x30

/-- The first `m` answers are each below the range of the position they fill: answer `j` fills position `LEN + j`
(43_id_generator.md R173). -/
def AnswersInRange (s : State) (m : Nat) : Prop :=
  ∀ j, j < m → (s.answers.getD j 0).toNat < slotSize (s.len.toNat + j)

/-- The events by which a GENERATE gets the answers `vs`, from the state in which it has sent `sent` requests: for each of them the
block's turn that sends the request and the answer to it, then the turn that commits (43_id_generator.md R173; log 3, 18). -/
def drawEvents (sent : Nat) : List Answer → List Event
  | [] => [.blockTurn]
  | v :: vs => .blockTurn :: .answer (sent + 1) v :: drawEvents (sent + 1) vs

/-- An access at offset `off` of the window that breaks the protocol (20_memory.md R51, R54, R55). -/
def Breach (s : State) (a : Access) (off : Nat) : Prop :=
  a.size ≠ 4 ∨ off % 4 ≠ 0 ∨ 0x68 ≤ off ∨
  (∃ addr size v, a = .write addr size v ∧ (s.busy = true ∨ off = 0x04 ∨ off = 0x08 ∨ 0x40 ≤ off))

end Sys2Proof.Machine
end

