-- ==== Sys2Proof/Certificates/Slice0/Obligations.lean ====
section
/-! DEFINITION. The statements for the provers.  Each docstring names the rule it formalises; "log n" marks a clause that is the
model's own choice (notes/assumptions/n.md). -/

open Sys2Proof Sys2Proof.Machine

/-! ## Encoding -/

/-- 30_encoding.md R81: the six words of the opcode map, written out bit by bit, decode to their commands. -/
def Obligations.CommandWordsDecodeToTheirCommands : Prop :=
  decode 0b00000000000000000000000000000001#32 = .ok .lookup ∧
  decode 0b00000000000000000000000000000010#32 = .ok .wsum ∧
  decode 0b00000000000000000000000000000011#32 = .ok .check ∧
  decode 0b00000000000000000000000000000100#32 = .ok .solve ∧
  decode 0b00000000000000000000000000000101#32 = .ok .validate ∧
  decode 0b00000000000000000000000000000110#32 = .ok .generate

/-- 30_encoding.md R80 to R83: a word decodes to a command exactly when it is that command's encoding. -/
def Obligations.DecodeAndEncodeAgree : Prop :=
  ∀ (w : Word) (i : Instr), decode w = .ok i ↔ w = encode i

/-- 30_encoding.md R82: a busy block performs the command whose word PENDING is; where PENDING has a bit of 31:4 set, or OPC 0 or
above 6, it commits ERR_OPC, whatever its operands, and draws nothing. -/
def Obligations.PerformRunsTheCommandOrErrOpc : Prop :=
  ∀ s : State, s.busy = true →
    (∀ i : Instr, s.pending = encode i → blockTurn s = exec i s) ∧
    (¬ ((s.pending.extractLsb' 4 28).toNat = 0 ∧ 1 ≤ (s.pending.extractLsb' 0 4).toNat ∧ (s.pending.extractLsb' 0 4).toNat ≤ 6) →
      ∃ t, blockTurn s = .next t ∧ CommitsError s t 1 ∧ t.drawn = s.drawn)

/-! ## The step -/

/-- 20_memory.md R57: the block's turn of a busy block is the meaning of the command PENDING decodes to,
as the next event of the inbox, or with no event left (log 2). -/
def Obligations.BlockTurnRunsTheDecodedCommand : Prop :=
  ∀ (s : State) (i : Instr) (rest : List Event), s.busy = true → decode s.pending = .ok i →
    (s.inbox = .blockTurn :: rest → step s = exec i (s.withInbox rest)) ∧
    (s.inbox = [] → step s = exec i s)

/-- log 12: from any state, the step after `withFetchWord` of a command's word is that command's meaning on the issued state. -/
def Obligations.FetchWordIsPerformedNext : Prop :=
  ∀ (s : State) (i : Instr), step (s.withFetchWord 32 (encode i).toNat) = exec i (s.issued (encode i))

/-- 30_encoding.md R89: an idle block does nothing of its own, with no event to come or at its turn. -/
def Obligations.IdleBlockWaits : Prop :=
  ∀ (s : State) (rest : List Event), s.busy = false →
    (s.inbox = [] → step s = .next s) ∧
    (s.inbox = .blockTurn :: rest → step s = .next (s.withInbox rest))

/-- 20_memory.md R57, R65: at its turn a busy block whose draws are all answered commits; one whose draws are not stays as it is
but for its entropy request. -/
def Obligations.TurnCommitsExactlyWhenEnabled : Prop :=
  ∀ s : State, s.busy = true →
    (performEnabled s = true → ∃ t, blockTurn s = .next t ∧ t.busy = false ∧ t.done = true) ∧
    (performEnabled s = false → s.request = none →
      ∃ r, blockTurn s = .next { s with request := some r, sent := s.sent + 1 }) ∧
    (performEnabled s = false → ∀ r, s.request = some r → blockTurn s = .next s)

/-! ## LOOKUP -/

/-- 40_encoding_table_lut.md R100, R102: LOOKUP of the k-th letter gives its code's two digits, and ERR_LETTER for
every other 32-bit code. -/
def Obligations.LookupFollowsTheLetterTable : Prop :=
  encode .lookup = 0x00000001#32 ∧
  (∀ (s : State) (k : Nat) (code : Nat), s.chr[0].toNat = 0x41 + k → letterCodes[k]? = some code →
    ∃ t, exec .lookup s = .next t ∧ CommitsOk s t (BitVec.ofNat 32 (code / 10 * 16 + code % 10)) s.out) ∧
  (∀ s : State, (s.chr[0].toNat < 0x41 ∨ 0x5A < s.chr[0].toNat) →
    ∃ t, exec .lookup s = .next t ∧ CommitsError s t 2)

/-- 40_encoding_table_lut.md R101, R103: the table's codes are 10 to 35, each once; their digits; the letters that start with 3;
the largest share of a sum; and a letter's ROM index. -/
def Obligations.TableCodesAreTenToThirtyFiveOnce : Prop :=
  (∀ n : Nat, 10 ≤ n → n ≤ 35 → ∃ k : Word, UpperCode k ∧ (tableTens k).toNat * 10 + (tableUnits k).toNat = n ∧
    ∀ j : Word, UpperCode j → (tableTens j).toNat * 10 + (tableUnits j).toNat = n → j = k) ∧
  (∀ k : Word, UpperCode k →
    10 ≤ (tableTens k).toNat * 10 + (tableUnits k).toNat ∧ (tableTens k).toNat * 10 + (tableUnits k).toNat ≤ 35 ∧
    1 ≤ (tableTens k).toNat ∧ (tableTens k).toNat ≤ 3 ∧ (tableUnits k).toNat ≤ 9 ∧
    ((tableTens k).toNat = 3 ↔ k.toNat ∈ [0x49, 0x4F, 0x57, 0x58, 0x59, 0x5A]) ∧
    (tableTens k).toNat * 1 + (tableUnits k).toNat * 9 ≤ 83 ∧
    romIndex k = k.toNat - 0x41 ∧ romIndex k < encodingRom.length) ∧
  (tableTens 0x56).toNat * 1 + (tableUnits 0x56).toNat * 9 = 83

/-! ## The checksum engine -/

/-- 41_checksum_engine.md R123: WSUM of eleven digits completes with their weighted sum; a field above 9 is ERR_DIGIT. -/
def Obligations.WsumReturnsTheWeightedSum : Prop :=
  encode .wsum = 0x00000002#32 ∧
  (∀ s : State, (∀ i : Fin 11, s.exp[i].toNat ≤ 9) →
    ∃ t, exec .wsum s = .next t ∧ CommitsOk s t (BitVec.ofNat 32 (expSum s.exp)) s.out ∧ expSum s.exp ≤ 423) ∧
  (∀ (s : State) (i : Fin 11), 9 < s.exp[i].toNat → ∃ t, exec .wsum s = .next t ∧ CommitsError s t 3)

/-- 41_checksum_engine.md R124: CHECK of eleven digits completes with 1 if their sum is 0 mod 10, else 0; a field above 9 is
ERR_DIGIT. -/
def Obligations.CheckTestsTheSumModuloTen : Prop :=
  encode .check = 0x00000003#32 ∧
  (∀ s : State, (∀ i : Fin 11, s.exp[i].toNat ≤ 9) →
    ∃ t, exec .check s = .next t ∧ CommitsOk s t (if expSum s.exp % 10 = 0 then 1 else 0) s.out) ∧
  (∀ (s : State) (i : Fin 11), 9 < s.exp[i].toNat → ∃ t, exec .check s = .next t ∧ CommitsError s t 3)

/-- 41_checksum_engine.md R125: SOLVE of ten digits completes with the check digit, whatever EXP[10] is; one of the ten above 9 is
ERR_DIGIT. -/
def Obligations.SolveReturnsTheCheckDigit : Prop :=
  encode .solve = 0x00000004#32 ∧
  (∀ s : State, (∀ i : Fin 11, i.val ≤ 9 → s.exp[i].toNat ≤ 9) →
    ∃ t, exec .solve s = .next t ∧ CommitsOk s t (BitVec.ofNat 32 ((10 - expPartialSum s.exp % 10) % 10)) s.out) ∧
  (∀ (s : State) (i : Fin 11), i.val ≤ 9 → 9 < s.exp[i].toNat → ∃ t, exec .solve s = .next t ∧ CommitsError s t 3)

/-- 41_checksum_engine.md R121: the weighted sum of up to eleven digits, so every partial sum too, stays within 423, and that of
ten within 414; the 16-bit accumulator holds each of them exactly. -/
def Obligations.WeightedSumsNeverWrap : Prop :=
  ∀ e : List Nat, (∀ d ∈ e, d ≤ 9) → e.length ≤ 11 →
    weightedSum e ≤ 423 ∧ (e.length ≤ 10 → weightedSum e ≤ 414) ∧ (sumWord (weightedSum e)).toNat = weightedSum e

/-- 41_checksum_engine.md R126: with the solved digit put into EXP[10] the expansion's sum is 0 mod 10 and CHECK passes, and with
no other digit. -/
def Obligations.SolvedDigitIsTheOnlyOneThatPasses : Prop :=
  ∀ s : State, (∀ i : Fin 11, i.val ≤ 9 → s.exp[i].toNat ≤ 9) →
    ∃ t, exec .solve s = .next t ∧ t.result.toNat ≤ 9 ∧
      ∀ (u : State) (d : Nibble), d.toNat ≤ 9 → u.exp = s.exp.set 10 d →
        (expSum u.exp % 10 = 0 ↔ d.toNat = t.result.toNat) ∧
        ∃ v, exec .check u = .next v ∧ v.code = 0 ∧ (v.result = 1 ↔ d.toNat = t.result.toNat)

/-! ## VALIDATE -/

/-- 42_validation.md R150: VALIDATE always completes, with 1 exactly for ten characters, a letter and nine digits whose
sum is 0 mod 10, and draws nothing. -/
def Obligations.ValidateDecidesEveryString : Prop :=
  encode .validate = 0x00000005#32 ∧
  ∀ s : State, ∃ t b, exec .validate s = .next t ∧ CommitsOk s t (if b then 1 else 0) s.out ∧ t.drawn = s.drawn ∧
    (b = true ↔ s.len = 10 ∧ UpperCode s.chr[0] ∧ (∀ k : Fin 10, 1 ≤ k.val → DigitCode s.chr[k]) ∧ idSum s.chr % 10 = 0)

/-- 42_validation.md R155: on a well-shaped string VALIDATE and CHECK of its expansion give the same result. -/
def Obligations.ValidateAgreesWithCheck : Prop :=
  ∀ (s u : State), s.len = 10 → UpperCode s.chr[0] → (∀ k : Fin 10, 1 ≤ k.val → DigitCode s.chr[k]) →
    u.exp.toList.map BitVec.toNat = expand s.chr.toList →
    ∃ v c, exec .validate s = .next v ∧ exec .check u = .next c ∧ c.code = 0 ∧ v.result = c.result

/-! ## GENERATE -/

/-- 43_id_generator.md R171: a prefix of more than 9 characters, whatever CHR holds, ends with ERR_PREFIX_LEN, and a shorter one
with a bad letter or digit with ERR_PREFIX_SHAPE; neither draws nor asks for a draw; every other prefix passes the checks. -/
def Obligations.BadPrefixDrawsNothing : Prop :=
  ∀ s : State,
    (9 < s.len.toNat → ∃ t, exec .generate s = .next t ∧ CommitsError s t 4 ∧
      t.drawn = s.drawn ∧ t.request = none ∧ t.sent = s.sent) ∧
    (1 ≤ s.len.toNat → s.len.toNat ≤ 9 →
      (¬ UpperCode s.chr[0] ∨ ∃ k : Fin 10, 1 ≤ k.val ∧ k.val < s.len.toNat ∧ ¬ DigitCode s.chr[k]) →
      ∃ t, exec .generate s = .next t ∧ CommitsError s t 5 ∧ t.drawn = s.drawn ∧ t.request = none ∧ t.sent = s.sent) ∧
    (GoodPrefix s → prefixError s = none)

/-- 43_id_generator.md R172: with a good prefix and every draw answered in range GENERATE completes: OUT is the prefix, then the
drawn characters, then the check digit of the nine. -/
def Obligations.GenerateCompletesThePrefix : Prop :=
  encode .generate = 0x00000006#32 ∧
  ∀ s : State, GoodPrefix s → 9 - s.len.toNat ≤ s.answers.length → AnswersInRange s (9 - s.len.toNat) →
    ∃ t o, exec .generate s = .next t ∧ CommitsOk s t 0 o ∧
      (∀ k : Fin 10, k.val < s.len.toNat → o[k] = s.chr[k]) ∧
      (∀ k : Fin 10, s.len.toNat ≤ k.val → k.val < 9 →
        o[k] = BitVec.ofNat 32 (slotFirst k.val + (s.answers.getD (k.val - s.len.toNat) 0).toNat)) ∧
      o[9] = BitVec.ofNat 32 (0x30 + (10 - idPartialSum o % 10) % 10)

/-- 43_id_generator.md R170, R173: the first answer that is not below its range ends GENERATE with ERR_ENTROPY; what was drawn
stays drawn. -/
def Obligations.FirstBadAnswerIsErrEntropy : Prop :=
  ∀ (s : State) (j : Nat), GoodPrefix s → j < s.answers.length → s.len.toNat + j < 9 → AnswersInRange s j →
    slotSize (s.len.toNat + j) ≤ (s.answers.getD j 0).toNat →
    ∃ t, exec .generate s = .next t ∧ CommitsError s t 6 ∧ t.drawn = s.drawn

/-- 70_reset_and_hazards.md R238, 43_id_generator.md R173: with a good prefix and an answer still missing GENERATE does not
commit: it sends the request for the range of the first position with no answer, and waits while that one is in flight (log 3). -/
def Obligations.GenerateWaitsForItsNextDraw : Prop :=
  ∀ s : State, GoodPrefix s → s.len.toNat + s.answers.length < 9 → AnswersInRange s s.answers.length →
    (s.request = none → exec .generate s = .next
      { s with request := some (slotRange (s.len.toNat + s.answers.length)), sent := s.sent + 1 }) ∧
    (∀ r, s.request = some r → exec .generate s = .next s)

/-- 43_id_generator.md R174: after a GENERATE that commits with CODE = 0, OUT starts with the prefix and is a letter and nine
digits, and COPYOUT and then VALIDATE give RESULT = 1. -/
def Obligations.GeneratedIdIsValidAndKeepsItsPrefix : Prop :=
  ∀ s t : State, s.busy = true → exec .generate s = .next t → t.busy = false → t.code = 0 →
    (∀ k : Fin 10, k.val < s.len.toNat → t.out[k] = s.chr[k]) ∧
    UpperCode t.out[0] ∧ (∀ k : Fin 10, 1 ≤ k.val → DigitCode t.out[k]) ∧
    ∃ v, exec .validate (hostAccesses ((copyout t.out).map HostOp.access) t) = .next v ∧ v.result = 1 ∧ v.code = 0

/-- 43_id_generator.md R175, 42_validation.md R154: a drawn category digit is 1 or 2, one the prefix supplies is copied as given,
and VALIDATE accepts every digit there. -/
def Obligations.CategoryDigitIsDrawnAsOneOrTwo : Prop :=
  (∀ s t : State, s.busy = true → exec .generate s = .next t → t.busy = false → t.code = 0 →
    (s.len.toNat ≤ 1 → ∃ v : Answer, v.toNat ≤ 1 ∧ t.out[1].toNat = 0x31 + v.toNat) ∧
    (2 ≤ s.len.toNat → DigitCode s.chr[1] ∧ t.out[1] = s.chr[1])) ∧
  (∀ d : Word, DigitCode d → ∃ s t : State, s.chr[1] = d ∧ exec .validate s = .next t ∧ t.result = 1)

/-- 43_id_generator.md R176: whatever a command does, OUT stays exactly as before or, after a GENERATE that commits with
CODE = 0, is a whole valid ID. -/
def Obligations.OutChangesAllAtOnceOrNotAtAll : Prop :=
  ∀ (i : Instr) (s t : State), exec i s = .next t →
    t.out = s.out ∨ (i = .generate ∧ t.code = 0 ∧ t.busy = false ∧ t.done = true ∧ validId t.out.toList = true)

/-- 43_id_generator.md R173, 70_reset_and_hazards.md R240: a GENERATE in flight with a good prefix, whose draws are answered in
range one by one, commits after exactly one turn more than it has draws, and every answer is drawn. -/
def Obligations.AnsweredGenerateRunsToItsCommit : Prop :=
  ∀ (s : State) (vs : List Answer), s.busy = true → decode s.pending = .ok .generate → GoodPrefix s →
    s.answers = [] → s.request = none → vs.length = 9 - s.len.toNat →
    (∀ j, j < vs.length → (vs.getD j 0).toNat < slotSize (s.len.toNat + j)) →
    s.inbox = drawEvents s.sent vs →
    ∃ t, core.run (2 * vs.length + 1) s = .next t ∧ t.busy = false ∧ t.done = true ∧ t.code = 0 ∧
      validId t.out.toList = true ∧ t.drawn = s.drawn ++ vs

/-! ## What commands leave alone -/

/-- 30_encoding.md R84, 60_exceptions.md R205: no command writes EXP, LEN, CHR, PENDING or PROTO, answers the bus, or takes an
event of the outside world; and FAULT is only ever set. -/
def Obligations.CommandsKeepOperandsProtoAndBus : Prop :=
  ∀ (i : Instr) (s t : State), exec i s = .next t →
    t.exp = s.exp ∧ t.len = s.len ∧ t.chr = s.chr ∧ t.pending = s.pending ∧ t.proto = s.proto ∧
    t.response = s.response ∧ t.inbox = s.inbox ∧ t.drawn = s.drawn ∧ (i ≠ .generate → t.sent = s.sent) ∧
    (s.fault = true → t.fault = true)

/-- 10_state.md R38: what a Perform step writes into RESULT, CODE and OUT depends only on the decoded PENDING, the operand
registers and the answers drawn. -/
def Obligations.CommandsAreStateless : Prop :=
  ∀ s₁ s₂ t₁ t₂ : State, decode s₁.pending = decode s₂.pending →
    s₁.exp = s₂.exp → s₁.len = s₂.len → s₁.chr = s₂.chr → s₁.answers = s₂.answers →
    performEnabled s₁ = true → performEnabled s₂ = true →
    blockTurn s₁ = .next t₁ → blockTurn s₂ = .next t₂ →
    t₁.result = t₂.result ∧ t₁.code = t₂.code ∧ ((t₁.out = s₁.out ∧ t₂.out = s₂.out) ∨ t₁.out = t₂.out)

/-! ## Commits -/

/-- 60_exceptions.md R202, R203: the error commit with every code and the success commit with every result, from every state; draws
already answered stay consumed; GENERATE's success also writes OUT in its commit. -/
def Obligations.CommitsWriteTheirRecord : Prop :=
  (∀ (e : CmdError) (s : State), ∃ t, raiseError e s = .next t ∧ CommitsError s t e.code ∧ t.drawn = s.drawn ∧
    1 ≤ e.code.toNat ∧ e.code.toNat ≤ 6) ∧
  (∀ (r : Word) (s : State), ∃ t, complete r s = .next t ∧ CommitsOk s t r s.out) ∧
  (∀ s t : State, s.busy = true → exec .generate s = .next t → t.busy = false → t.code = 0 →
    CommitsOk s t 0 t.out ∧ validId t.out.toList = true)

/-- log 3: after any commit no entropy request is in flight and no answer is left over. -/
def Obligations.CommitsCloseTheEntropyPort : Prop :=
  ∀ (i : Instr) (s t : State), s.busy = true → exec i s = .next t → t.busy = false → t.request = none ∧ t.answers = []

/-! ## Host accesses -/

/-- 20_memory.md R51, R54, R55: a misshapen access, an access at an unmapped offset, a write to a read-only register and a write
while busy are answered with an error (and 0 for a read), set PROTO and change nothing else. -/
def Obligations.BadAccessIsRecordedAndDropped : Prop :=
  ∀ (s : State) (a : Access) (off : Nat), off < 0x80 → a.addr = Config.base + off → Breach s a off →
    hostAccess a s = { s with
      proto := true
      response := match a with
        | .read _ _ => some (.read true 0)
        | .write _ _ _ => some (.write true) }

/-- 20_memory.md R52: what a read of each register returns, in any state, and that it changes nothing but the bus's answer. -/
def Obligations.ReadsReturnTheRegisters : Prop :=
  ∀ (s : State) (k : Fin 10),
    let rd := fun (off : Nat) (d : Word) =>
      hostAccess (.read (Config.base + off) 4) s = { s with response := some (.read false d) }
    rd 0x00 0 ∧
    rd 0x04 (0#20 ++ s.code ++ 0#4 ++ BitVec.ofBool s.proto ++ BitVec.ofBool s.fault ++ BitVec.ofBool s.done
      ++ BitVec.ofBool s.busy) ∧
    rd 0x08 s.result ∧
    rd 0x0C (s.exp[7] ++ s.exp[6] ++ s.exp[5] ++ s.exp[4] ++ s.exp[3] ++ s.exp[2] ++ s.exp[1] ++ s.exp[0]) ∧
    rd 0x10 (0#20 ++ s.exp[10] ++ s.exp[9] ++ s.exp[8]) ∧
    rd 0x14 s.len ∧
    rd (0x18 + 4 * k.val) s.chr[k] ∧
    rd (0x40 + 4 * k.val) s.out[k]

/-- 20_memory.md R53: what an accepted write does to each writable register while idle, and that it changes nothing else. -/
def Obligations.IdleWritesReachTheirRegister : Prop :=
  ∀ (s : State) (v : Word) (k : Fin 10), s.busy = false →
    let wr := fun (off : Nat) (t : State) =>
      hostAccess (.write (Config.base + off) 4 v) s = { t with response := some (.write false) }
    wr 0x00 { s with pending := v, busy := true, done := false } ∧
    (∃ e, wr 0x0C { s with exp := e } ∧
      ∀ i : Fin 11, e[i] = if i.val < 8 then v.extractLsb' (4 * i.val) 4 else s.exp[i]) ∧
    (∃ e, wr 0x10 { s with exp := e } ∧
      ∀ i : Fin 11, e[i] = if i.val < 8 then s.exp[i] else v.extractLsb' (4 * (i.val - 8)) 4) ∧
    wr 0x14 { s with len := v } ∧
    (∃ chr', wr (0x18 + 4 * k.val) { s with chr := chr' } ∧ ∀ j : Fin 10, chr'[j] = if j = k then v else s.chr[j])

/-- 10_state.md R29: EXP_LO reads back whole, EXP_HI reads back its low 12 bits, and neither write disturbs the other register. -/
def Obligations.ExpansionReadsBack : Prop :=
  ∀ (s : State) (v : Word),
    (s.writeReg v .expLo).readReg .expLo = v ∧ (s.writeReg v .expLo).readReg .expHi = s.readReg .expHi ∧
    (s.writeReg v .expHi).readReg .expHi = v &&& 0x00000FFF#32 ∧ (s.writeReg v .expHi).readReg .expLo = s.readReg .expLo

/-- 10_state.md R22: each field of STATUS at its bits, and the reserved bits 0. -/
def Obligations.StatusFieldsStandAtTheirBits : Prop :=
  ∀ s : State,
    (s.readReg .status).getLsbD 0 = s.busy ∧ (s.readReg .status).getLsbD 1 = s.done ∧
    (s.readReg .status).getLsbD 2 = s.fault ∧ (s.readReg .status).getLsbD 3 = s.proto ∧
    (s.readReg .status).extractLsb' 4 4 = 0 ∧ (s.readReg .status).extractLsb' 8 4 = s.code ∧
    (s.readReg .status).extractLsb' 12 20 = 0

/-- 10_state.md R20, 20_memory.md R50: the offsets 0x00 to 0x67 that are multiples of 4 are one register each, and the rest of
the window is unmapped. -/
def Obligations.EveryMappedOffsetIsOneRegister : Prop :=
  (∀ r : Reg, regAt r.offset = some r) ∧
  (∀ off, off % 4 = 0 → (off < 0x68 ↔ ∃ r : Reg, r.offset = off)) ∧
  (∀ off, 0x68 ≤ off → regAt off = none)

/-- 20_memory.md R50: an access that starts outside the window changes nothing (log 10). -/
def Obligations.AccessOutsideTheWindowIsNotOurs : Prop :=
  ∀ (s : State) (a : Access), (a.addr < Config.base ∨ Config.base + 0x80 ≤ a.addr) → hostAccess a s = s

/-- 20_memory.md R54, R57, R60: as long as a command is in flight no step changes its word or its operands. -/
def Obligations.InFlightCommandCannotBeChanged : Prop :=
  ∀ s t : State, s.busy = true → step s = .next t → t.busy = true →
    t.pending = s.pending ∧ t.exp = s.exp ∧ t.len = s.len ∧ t.chr = s.chr ∧ t.out = s.out ∧ t.result = s.result ∧ t.code = s.code

/-- 30_encoding.md R87: LDSTR, LDEXP, COPYOUT and GEN, run by the host on an idle block, load exactly the registers they name; a length is taken
modulo 2^32 (log 17). -/
def Obligations.PseudoInstructionsLoadTheOperands : Prop :=
  ∀ (s : State) (cs : List Word) (e : Vector Nibble 11) (v : Vector Word 10), s.busy = false →
    (∃ chr', hostAccesses ((ldstr cs).map HostOp.access) s =
        { s with len := BitVec.ofNat 32 cs.length, chr := chr', response := some (.write false) } ∧
      ∀ k : Fin 10, chr'[k] = cs.getD k.val s.chr[k]) ∧
    hostAccesses ((ldexp e).map HostOp.access) s = { s with exp := e, response := some (.write false) } ∧
    hostAccesses ((copyout v).map HostOp.access) s = { s with chr := v, len := 10, response := some (.write false) } ∧
    hostAccesses (gen.map HostOp.access) s =
      { s with len := 0, pending := 6, busy := true, done := false, response := some (.write false) }

/-- 20_memory.md R58, 60_exceptions.md R205, 95_test_vectors.md P4: a write of LEN that races an enabled Perform step is accepted
if that step comes first and dropped with PROTO set if it comes second; the command's outcome is the same. -/
def Obligations.RacingWriteAdmitsBothOrders : Prop :=
  ∀ (s : State) (v : Word), performEnabled s = true →
    ∃ a b, core.run 2 (s.withInbox [.blockTurn, .access (.write (Config.base + 0x14) 4 v)]) = .next a ∧
      core.run 2 (s.withInbox [.access (.write (Config.base + 0x14) 4 v), .blockTurn]) = .next b ∧
      a.busy = false ∧ b.busy = false ∧ a.len = v ∧ b.len = s.len ∧
      a.proto = s.proto ∧ b.proto = true ∧ a.response = some (.write false) ∧ b.response = some (.write true) ∧
      a.result = b.result ∧ a.code = b.code ∧ a.fault = b.fault ∧ a.out = b.out

/-- 30_encoding.md R87, 20_memory.md R59, 70_reset_and_hazards.md R241: `CALL` of a command with its draws answered, with the
Perform step before the last read of its `POLL`: the reads before find BUSY = 1, the last finds BUSY = 0, the run has ended, and
RESULT, CODE and OUT are the command's. -/
def Obligations.CallPollsUntilTheCommit : Prop :=
  ∀ (s : State) (i : Instr) (again : Nat), s.busy = false → performEnabled (s.issued (encode i)) = true →
    s.inbox = (hostEvents (call i again)).take (again + 1) ++ .blockTurn :: (hostEvents (call i again)).drop (again + 1) →
    (∀ k, 1 ≤ k → k ≤ again → ∃ u w, core.run (k + 1) s = .next u ∧ u.response = some (.read false w) ∧ pollEnds w = false) ∧
    ∃ t w u, core.run (again + 3) s = .next t ∧ t.response = some (.read false w) ∧ pollEnds w = true ∧ t.runEnded = true ∧
      exec i (s.issued (encode i)) = .next u ∧ t.result = u.result ∧ t.code = u.code ∧ t.out = u.out ∧ t.done = true

/-! ## STATUS over steps -/

/-- 10_state.md R23: BUSY rises only at an accepted CMD write, which latches its word, and falls only at a Perform step that is
enabled, or at reset. -/
def Obligations.BusyChangesOnlyAtIssueCommitAndReset : Prop :=
  ∀ s t : State, step s = .next t →
    (s.busy = false → t.busy = true →
      ∃ v rest, s.inbox = .access (.write Config.base 4 v) :: rest ∧ t.pending = v ∧ t.done = false) ∧
    (s.busy = true → t.busy = false →
      (performEnabled s = true ∧ t.done = true ∧ (s.inbox = [] ∨ ∃ rest, s.inbox = .blockTurn :: rest)) ∨
      ∃ rest, s.inbox = .reset :: rest)

/-- 10_state.md R25: FAULT is set by an error commit and by nothing else, only reset clears it, and commands run normally while
it is 1. -/
def Obligations.FaultIsSetByErrorCommitsOnly : Prop :=
  (∀ s t : State, step s = .next t →
    (s.fault = false → t.fault = true → s.busy = true ∧ t.busy = false ∧ t.done = true ∧ t.code ≠ 0 ∧ t.result = 0) ∧
    (s.busy = true → t.busy = false → t.code ≠ 0 → t.fault = true) ∧
    (s.fault = true → t.fault = false → ∃ rest, s.inbox = .reset :: rest)) ∧
  (∀ (i : Instr) (s t : State), exec i s = .next t → exec i { s with fault := true } = .next { t with fault := true })

/-- 10_state.md R26, R36, 20_memory.md R50, R51, R54, R55: PROTO is set by exactly the accesses that break the protocol, and only
reset clears it.  That an access which starts outside the window and reaches into it does not set PROTO is the model's reading
(log 10). -/
def Obligations.ProtoIsSetByBadAccessesOnly : Prop :=
  ∀ s t : State, step s = .next t →
    (s.proto = false → (t.proto = true ↔
      ∃ a off rest, s.inbox = .access a :: rest ∧ off < 0x80 ∧ a.addr = Config.base + off ∧ Breach s a off)) ∧
    (s.proto = true → t.proto = false → ∃ rest, s.inbox = .reset :: rest)

/-- 60_exceptions.md R207: if no reset is to come and the run ends with FAULT = PROTO = 0, they were 0 all along. -/
def Obligations.CleanEndMeansNoErrorInTheRun : Prop :=
  ∀ (k m : Nat) (s u t : State), s.resetFree = true → core.run k s = .next u → core.run m u = .next t →
    t.wellBehaved = true → u.wellBehaved = true ∧ s.wellBehaved = true

/-- 10_state.md R24, R27, R28, 20_memory.md R59: RESULT, CODE and OUT change only at a commit or reset; DONE rises only at a commit
and falls only at an accepted CMD write or reset. -/
def Obligations.ResultsStayUntilTheNextCommit : Prop :=
  ∀ s t : State, step s = .next t →
    ((t.result ≠ s.result ∨ t.code ≠ s.code ∨ t.out ≠ s.out) →
      (s.busy = true ∧ t.busy = false) ∨ ∃ rest, s.inbox = .reset :: rest) ∧
    (s.done = false → t.done = true → s.busy = true ∧ t.busy = false) ∧
    (s.done = true → t.done = false →
      (∃ v rest, s.inbox = .access (.write Config.base 4 v) :: rest) ∨ ∃ rest, s.inbox = .reset :: rest)

/-- 10_state.md R29, R30, R31: EXP, LEN and CHR change only by a host write to an idle block, or at reset. -/
def Obligations.OperandsChangeOnlyByIdleWrites : Prop :=
  ∀ s t : State, step s = .next t → (t.exp ≠ s.exp ∨ t.len ≠ s.len ∨ t.chr ≠ s.chr) →
    (s.busy = false ∧ ∃ addr v rest, s.inbox = .access (.write addr 4 v) :: rest) ∨ ∃ rest, s.inbox = .reset :: rest

/-- 43_id_generator.md R170, 70_reset_and_hazards.md R232: an answer is taken, and drawn, only if the request it answers is in flight;
with none in flight, or another one, it changes nothing (log 3, 18). -/
def Obligations.AnswerIsTakenOnlyByARequest : Prop :=
  ∀ (s : State) (n : Nat) (v : Answer) (rest : List Event), s.inbox = .answer n v :: rest →
    ((s.request = none ∨ n ≠ s.sent) → step s = .next (s.withInbox rest)) ∧
    (∀ r, s.request = some r → n = s.sent → step s = .next
      { s.withInbox rest with request := none, answers := s.answers ++ [v], drawn := s.drawn ++ [v] })

/-! ## Reset -/

/-- 70_reset_and_hazards.md R230, R232: from any state `rst` zeroes every register and drops the command in flight; a late answer
is then ignored. -/
def Obligations.RstZeroesEverythingAndDropsTheCommand : Prop :=
  ∀ (s : State) (rest : List Event), s.inbox = .reset :: rest →
    ∃ t, step s = .next t ∧ (∀ r : Reg, t.readReg r = 0) ∧ t.pending = 0 ∧ t.busy = false ∧ t.request = none ∧
      t.drawn = s.drawn ∧ ∀ (n : Nat) (v : Answer) (rest' : List Event), rest = .answer n v :: rest' →
        step t = .next (t.withInbox rest')

/-- 70_reset_and_hazards.md R232: after `rst` an answer to a request sent before it is ignored, whenever it arrives, whatever commands
have been issued since and whichever request is in flight then (log 18: an answer names the request it answers). -/
def Obligations.WithdrawnRequestIsNeverAnswered : Prop :=
  ∀ (s t u : State) (k n : Nat) (v : Answer) (rest rest' : List Event), s.inbox = .reset :: rest → step s = .next t →
    core.run k t = .next u → n ≤ s.sent → u.inbox = .answer n v :: rest' → step u = .next (u.withInbox rest')

/-- 70_reset_and_hazards.md R231: every register reads 0 after reset, and what each command gives on the reset operands. -/
def Obligations.ResetOperandsAreWellDefined : Prop :=
  (∀ r : Reg, State.reset.readReg r = 0) ∧
  (∃ t, exec .validate State.reset = .next t ∧ t.result = 0 ∧ t.code = 0) ∧
  (∃ t, exec .wsum State.reset = .next t ∧ t.result = 0 ∧ t.code = 0) ∧
  (∃ t, exec .check State.reset = .next t ∧ t.result = 1 ∧ t.code = 0) ∧
  (∃ t, exec .solve State.reset = .next t ∧ t.result = 0 ∧ t.code = 0) ∧
  (∃ t, exec .lookup State.reset = .next t ∧ t.code = 2 ∧ t.fault = true) ∧
  exec .generate State.reset = .next { State.reset with request := some .letter, sent := State.reset.sent + 1 }

/-- 93_implementation_defined.md item 13: a bus access while `rst` is asserted is refused by name (log 8). -/
def Obligations.AccessDuringResetIsRefused : Prop :=
  ∀ (s : State) (a : Access) (rest : List Event), s.inbox = .accessInReset a :: rest →
    step s = .refused .accessDuringReset

/-! ## The invariant -/

/-- The invariant holds at reset. -/
def Obligations.ResetMeetsTheInvariant : Prop := State.reset.Inv

/-- From every state that meets the invariant, every step leads to one that meets it: among others OUT is its reset value or a
whole valid ID, CODE is a defined code, an error code stands with FAULT set, and the entropy port belongs to a GENERATE in
flight. -/
def Obligations.EveryStepKeepsTheInvariant : Prop :=
  ∀ s t : State, s.Inv → step s = .next t → t.Inv

/-! ## The end of a run -/

/-- 70_reset_and_hazards.md R241: from a state that meets the invariant, an ended run stays ended at every step, and its observation
stays as it is unless the event is reset (log 19: a reset may still come). -/
def Obligations.EndedRunKeepsItsObservation : Prop :=
  ∀ s t : State, s.Inv → s.runEnded = true → step s = .next t →
    t.runEnded = true ∧ (SameObservation s t ∨ ∃ rest, s.inbox = .reset :: rest)
end

