-- ==== Sys2Proof/Laws/State.lean ====
section
/-! SUPPORT. What each named update leaves in each field of State: one lemma per field per update. -/

namespace Sys2Proof.Machine

/-! ### completed: Complete(r), 60_exceptions.md R203 -/

@[simp] theorem State.completed_busy (s : State) (r : Word) : (s.completed r).busy = false := rfl
@[simp] theorem State.completed_done (s : State) (r : Word) : (s.completed r).done = true := rfl
@[simp] theorem State.completed_fault (s : State) (r : Word) : (s.completed r).fault = s.fault := rfl
@[simp] theorem State.completed_proto (s : State) (r : Word) : (s.completed r).proto = s.proto := rfl
@[simp] theorem State.completed_code (s : State) (r : Word) : (s.completed r).code = okCode := rfl
@[simp] theorem State.completed_result (s : State) (r : Word) : (s.completed r).result = r := rfl
@[simp] theorem State.completed_exp (s : State) (r : Word) : (s.completed r).exp = s.exp := rfl
@[simp] theorem State.completed_len (s : State) (r : Word) : (s.completed r).len = s.len := rfl
@[simp] theorem State.completed_chr (s : State) (r : Word) : (s.completed r).chr = s.chr := rfl
@[simp] theorem State.completed_out (s : State) (r : Word) : (s.completed r).out = s.out := rfl
@[simp] theorem State.completed_pending (s : State) (r : Word) : (s.completed r).pending = s.pending := rfl
@[simp] theorem State.completed_request (s : State) (r : Word) : (s.completed r).request = none := rfl
@[simp] theorem State.completed_sent (s : State) (r : Word) : (s.completed r).sent = s.sent := rfl
@[simp] theorem State.completed_answers (s : State) (r : Word) : (s.completed r).answers = [] := rfl
@[simp] theorem State.completed_drawn (s : State) (r : Word) : (s.completed r).drawn = s.drawn := rfl
@[simp] theorem State.completed_response (s : State) (r : Word) : (s.completed r).response = s.response := rfl
@[simp] theorem State.completed_inbox (s : State) (r : Word) : (s.completed r).inbox = s.inbox := rfl

/-! ### failed: raise CmdError, 60_exceptions.md R202 -/

@[simp] theorem State.failed_busy (s : State) (e : CmdError) : (s.failed e).busy = false := rfl
@[simp] theorem State.failed_done (s : State) (e : CmdError) : (s.failed e).done = true := rfl
@[simp] theorem State.failed_fault (s : State) (e : CmdError) : (s.failed e).fault = true := rfl
@[simp] theorem State.failed_proto (s : State) (e : CmdError) : (s.failed e).proto = s.proto := rfl
@[simp] theorem State.failed_code (s : State) (e : CmdError) : (s.failed e).code = e.code := rfl
@[simp] theorem State.failed_result (s : State) (e : CmdError) : (s.failed e).result = 0 := rfl
@[simp] theorem State.failed_exp (s : State) (e : CmdError) : (s.failed e).exp = s.exp := rfl
@[simp] theorem State.failed_len (s : State) (e : CmdError) : (s.failed e).len = s.len := rfl
@[simp] theorem State.failed_chr (s : State) (e : CmdError) : (s.failed e).chr = s.chr := rfl
@[simp] theorem State.failed_out (s : State) (e : CmdError) : (s.failed e).out = s.out := rfl
@[simp] theorem State.failed_pending (s : State) (e : CmdError) : (s.failed e).pending = s.pending := rfl
@[simp] theorem State.failed_request (s : State) (e : CmdError) : (s.failed e).request = none := rfl
@[simp] theorem State.failed_sent (s : State) (e : CmdError) : (s.failed e).sent = s.sent := rfl
@[simp] theorem State.failed_answers (s : State) (e : CmdError) : (s.failed e).answers = [] := rfl
@[simp] theorem State.failed_drawn (s : State) (e : CmdError) : (s.failed e).drawn = s.drawn := rfl
@[simp] theorem State.failed_response (s : State) (e : CmdError) : (s.failed e).response = s.response := rfl
@[simp] theorem State.failed_inbox (s : State) (e : CmdError) : (s.failed e).inbox = s.inbox := rfl

/-! ### issued: an accepted CMD write, 20_memory.md R53 -/

@[simp] theorem State.issued_busy (s : State) (v : Word) : (s.issued v).busy = true := rfl
@[simp] theorem State.issued_done (s : State) (v : Word) : (s.issued v).done = false := rfl
@[simp] theorem State.issued_fault (s : State) (v : Word) : (s.issued v).fault = s.fault := rfl
@[simp] theorem State.issued_proto (s : State) (v : Word) : (s.issued v).proto = s.proto := rfl
@[simp] theorem State.issued_code (s : State) (v : Word) : (s.issued v).code = s.code := rfl
@[simp] theorem State.issued_result (s : State) (v : Word) : (s.issued v).result = s.result := rfl
@[simp] theorem State.issued_exp (s : State) (v : Word) : (s.issued v).exp = s.exp := rfl
@[simp] theorem State.issued_len (s : State) (v : Word) : (s.issued v).len = s.len := rfl
@[simp] theorem State.issued_chr (s : State) (v : Word) : (s.issued v).chr = s.chr := rfl
@[simp] theorem State.issued_out (s : State) (v : Word) : (s.issued v).out = s.out := rfl
@[simp] theorem State.issued_pending (s : State) (v : Word) : (s.issued v).pending = v := rfl
@[simp] theorem State.issued_request (s : State) (v : Word) : (s.issued v).request = s.request := rfl
@[simp] theorem State.issued_sent (s : State) (v : Word) : (s.issued v).sent = s.sent := rfl
@[simp] theorem State.issued_answers (s : State) (v : Word) : (s.issued v).answers = s.answers := rfl
@[simp] theorem State.issued_drawn (s : State) (v : Word) : (s.issued v).drawn = s.drawn := rfl
@[simp] theorem State.issued_response (s : State) (v : Word) : (s.issued v).response = s.response := rfl
@[simp] theorem State.issued_inbox (s : State) (v : Word) : (s.issued v).inbox = s.inbox := rfl

/-! ### requested: an entropy request, 43_id_generator.md R170 -/

@[simp] theorem State.requested_busy (s : State) (r : DrawRange) : (s.requested r).busy = s.busy := by
  unfold State.requested; split <;> rfl
@[simp] theorem State.requested_done (s : State) (r : DrawRange) : (s.requested r).done = s.done := by
  unfold State.requested; split <;> rfl
@[simp] theorem State.requested_fault (s : State) (r : DrawRange) : (s.requested r).fault = s.fault := by
  unfold State.requested; split <;> rfl
@[simp] theorem State.requested_proto (s : State) (r : DrawRange) : (s.requested r).proto = s.proto := by
  unfold State.requested; split <;> rfl
@[simp] theorem State.requested_code (s : State) (r : DrawRange) : (s.requested r).code = s.code := by
  unfold State.requested; split <;> rfl
@[simp] theorem State.requested_result (s : State) (r : DrawRange) : (s.requested r).result = s.result := by
  unfold State.requested; split <;> rfl
@[simp] theorem State.requested_exp (s : State) (r : DrawRange) : (s.requested r).exp = s.exp := by
  unfold State.requested; split <;> rfl
@[simp] theorem State.requested_len (s : State) (r : DrawRange) : (s.requested r).len = s.len := by
  unfold State.requested; split <;> rfl
@[simp] theorem State.requested_chr (s : State) (r : DrawRange) : (s.requested r).chr = s.chr := by
  unfold State.requested; split <;> rfl
@[simp] theorem State.requested_out (s : State) (r : DrawRange) : (s.requested r).out = s.out := by
  unfold State.requested; split <;> rfl
@[simp] theorem State.requested_pending (s : State) (r : DrawRange) : (s.requested r).pending = s.pending := by
  unfold State.requested; split <;> rfl
@[simp] theorem State.requested_answers (s : State) (r : DrawRange) : (s.requested r).answers = s.answers := by
  unfold State.requested; split <;> rfl
@[simp] theorem State.requested_drawn (s : State) (r : DrawRange) : (s.requested r).drawn = s.drawn := by
  unfold State.requested; split <;> rfl
@[simp] theorem State.requested_response (s : State) (r : DrawRange) : (s.requested r).response = s.response := by
  unfold State.requested; split <;> rfl
@[simp] theorem State.requested_inbox (s : State) (r : DrawRange) : (s.requested r).inbox = s.inbox := by
  unfold State.requested; split <;> rfl

theorem State.requested_first (s : State) (r : DrawRange) (h : s.request = none) :
    s.requested r = { s with request := some r, sent := s.sent + 1 } := by
  simp [State.requested, h]

theorem State.requested_again (s : State) (r r' : DrawRange) (h : s.request = some r') : s.requested r = s := by
  simp [State.requested, h]

/-! ### protocolError: a protocol error, 20_memory.md R54 -/

@[simp] theorem State.protocolError_busy (s : State) (a : Access) : (s.protocolError a).busy = s.busy := rfl
@[simp] theorem State.protocolError_done (s : State) (a : Access) : (s.protocolError a).done = s.done := rfl
@[simp] theorem State.protocolError_fault (s : State) (a : Access) : (s.protocolError a).fault = s.fault := rfl
@[simp] theorem State.protocolError_proto (s : State) (a : Access) : (s.protocolError a).proto = true := rfl
@[simp] theorem State.protocolError_code (s : State) (a : Access) : (s.protocolError a).code = s.code := rfl
@[simp] theorem State.protocolError_result (s : State) (a : Access) : (s.protocolError a).result = s.result := rfl
@[simp] theorem State.protocolError_exp (s : State) (a : Access) : (s.protocolError a).exp = s.exp := rfl
@[simp] theorem State.protocolError_len (s : State) (a : Access) : (s.protocolError a).len = s.len := rfl
@[simp] theorem State.protocolError_chr (s : State) (a : Access) : (s.protocolError a).chr = s.chr := rfl
@[simp] theorem State.protocolError_out (s : State) (a : Access) : (s.protocolError a).out = s.out := rfl
@[simp] theorem State.protocolError_pending (s : State) (a : Access) : (s.protocolError a).pending = s.pending := rfl
@[simp] theorem State.protocolError_request (s : State) (a : Access) : (s.protocolError a).request = s.request := rfl
@[simp] theorem State.protocolError_answers (s : State) (a : Access) : (s.protocolError a).answers = s.answers := rfl
@[simp] theorem State.protocolError_drawn (s : State) (a : Access) : (s.protocolError a).drawn = s.drawn := rfl
@[simp] theorem State.protocolError_response (s : State) (a : Access) : (s.protocolError a).response = some a.errorResponse := rfl
@[simp] theorem State.protocolError_inbox (s : State) (a : Access) : (s.protocolError a).inbox = s.inbox := rfl

/-! ### afterRst: rst, 70_reset_and_hazards.md R230 -/

@[simp] theorem State.afterRst_busy (s : State) : s.afterRst.busy = State.reset.busy := rfl
@[simp] theorem State.afterRst_done (s : State) : s.afterRst.done = State.reset.done := rfl
@[simp] theorem State.afterRst_fault (s : State) : s.afterRst.fault = State.reset.fault := rfl
@[simp] theorem State.afterRst_proto (s : State) : s.afterRst.proto = State.reset.proto := rfl
@[simp] theorem State.afterRst_code (s : State) : s.afterRst.code = State.reset.code := rfl
@[simp] theorem State.afterRst_result (s : State) : s.afterRst.result = State.reset.result := rfl
@[simp] theorem State.afterRst_exp (s : State) : s.afterRst.exp = State.reset.exp := rfl
@[simp] theorem State.afterRst_len (s : State) : s.afterRst.len = State.reset.len := rfl
@[simp] theorem State.afterRst_chr (s : State) : s.afterRst.chr = State.reset.chr := rfl
@[simp] theorem State.afterRst_out (s : State) : s.afterRst.out = State.reset.out := rfl
@[simp] theorem State.afterRst_pending (s : State) : s.afterRst.pending = State.reset.pending := rfl
@[simp] theorem State.afterRst_request (s : State) : s.afterRst.request = State.reset.request := rfl
@[simp] theorem State.afterRst_sent (s : State) : s.afterRst.sent = s.sent := rfl
@[simp] theorem State.afterRst_answers (s : State) : s.afterRst.answers = State.reset.answers := rfl
@[simp] theorem State.afterRst_drawn (s : State) : s.afterRst.drawn = s.drawn := rfl
@[simp] theorem State.afterRst_response (s : State) : s.afterRst.response = State.reset.response := rfl
@[simp] theorem State.afterRst_inbox (s : State) : s.afterRst.inbox = s.inbox := rfl

/-! ### respond: the answer on the bus -/

@[simp] theorem State.respond_busy (s : State) (b : BusResponse) : (s.respond b).busy = s.busy := rfl
@[simp] theorem State.respond_done (s : State) (b : BusResponse) : (s.respond b).done = s.done := rfl
@[simp] theorem State.respond_fault (s : State) (b : BusResponse) : (s.respond b).fault = s.fault := rfl
@[simp] theorem State.respond_proto (s : State) (b : BusResponse) : (s.respond b).proto = s.proto := rfl
@[simp] theorem State.respond_code (s : State) (b : BusResponse) : (s.respond b).code = s.code := rfl
@[simp] theorem State.respond_result (s : State) (b : BusResponse) : (s.respond b).result = s.result := rfl
@[simp] theorem State.respond_exp (s : State) (b : BusResponse) : (s.respond b).exp = s.exp := rfl
@[simp] theorem State.respond_len (s : State) (b : BusResponse) : (s.respond b).len = s.len := rfl
@[simp] theorem State.respond_chr (s : State) (b : BusResponse) : (s.respond b).chr = s.chr := rfl
@[simp] theorem State.respond_out (s : State) (b : BusResponse) : (s.respond b).out = s.out := rfl
@[simp] theorem State.respond_pending (s : State) (b : BusResponse) : (s.respond b).pending = s.pending := rfl
@[simp] theorem State.respond_request (s : State) (b : BusResponse) : (s.respond b).request = s.request := rfl
@[simp] theorem State.respond_sent (s : State) (b : BusResponse) : (s.respond b).sent = s.sent := rfl
@[simp] theorem State.respond_answers (s : State) (b : BusResponse) : (s.respond b).answers = s.answers := rfl
@[simp] theorem State.respond_drawn (s : State) (b : BusResponse) : (s.respond b).drawn = s.drawn := rfl
@[simp] theorem State.respond_response (s : State) (b : BusResponse) : (s.respond b).response = some b := rfl
@[simp] theorem State.respond_inbox (s : State) (b : BusResponse) : (s.respond b).inbox = s.inbox := rfl

/-! ### withOut: OUT, all at once -/

@[simp] theorem State.withOut_busy (s : State) (o : Vector Word 10) : (s.withOut o).busy = s.busy := rfl
@[simp] theorem State.withOut_done (s : State) (o : Vector Word 10) : (s.withOut o).done = s.done := rfl
@[simp] theorem State.withOut_fault (s : State) (o : Vector Word 10) : (s.withOut o).fault = s.fault := rfl
@[simp] theorem State.withOut_proto (s : State) (o : Vector Word 10) : (s.withOut o).proto = s.proto := rfl
@[simp] theorem State.withOut_code (s : State) (o : Vector Word 10) : (s.withOut o).code = s.code := rfl
@[simp] theorem State.withOut_result (s : State) (o : Vector Word 10) : (s.withOut o).result = s.result := rfl
@[simp] theorem State.withOut_exp (s : State) (o : Vector Word 10) : (s.withOut o).exp = s.exp := rfl
@[simp] theorem State.withOut_len (s : State) (o : Vector Word 10) : (s.withOut o).len = s.len := rfl
@[simp] theorem State.withOut_chr (s : State) (o : Vector Word 10) : (s.withOut o).chr = s.chr := rfl
@[simp] theorem State.withOut_out (s : State) (o : Vector Word 10) : (s.withOut o).out = o := rfl
@[simp] theorem State.withOut_pending (s : State) (o : Vector Word 10) : (s.withOut o).pending = s.pending := rfl
@[simp] theorem State.withOut_request (s : State) (o : Vector Word 10) : (s.withOut o).request = s.request := rfl
@[simp] theorem State.withOut_sent (s : State) (o : Vector Word 10) : (s.withOut o).sent = s.sent := rfl
@[simp] theorem State.withOut_answers (s : State) (o : Vector Word 10) : (s.withOut o).answers = s.answers := rfl
@[simp] theorem State.withOut_drawn (s : State) (o : Vector Word 10) : (s.withOut o).drawn = s.drawn := rfl
@[simp] theorem State.withOut_response (s : State) (o : Vector Word 10) : (s.withOut o).response = s.response := rfl
@[simp] theorem State.withOut_inbox (s : State) (o : Vector Word 10) : (s.withOut o).inbox = s.inbox := rfl

/-! ### withInbox: other events to come -/

@[simp] theorem State.withInbox_busy (s : State) (l : List Event) : (s.withInbox l).busy = s.busy := rfl
@[simp] theorem State.withInbox_done (s : State) (l : List Event) : (s.withInbox l).done = s.done := rfl
@[simp] theorem State.withInbox_fault (s : State) (l : List Event) : (s.withInbox l).fault = s.fault := rfl
@[simp] theorem State.withInbox_proto (s : State) (l : List Event) : (s.withInbox l).proto = s.proto := rfl
@[simp] theorem State.withInbox_code (s : State) (l : List Event) : (s.withInbox l).code = s.code := rfl
@[simp] theorem State.withInbox_result (s : State) (l : List Event) : (s.withInbox l).result = s.result := rfl
@[simp] theorem State.withInbox_exp (s : State) (l : List Event) : (s.withInbox l).exp = s.exp := rfl
@[simp] theorem State.withInbox_len (s : State) (l : List Event) : (s.withInbox l).len = s.len := rfl
@[simp] theorem State.withInbox_chr (s : State) (l : List Event) : (s.withInbox l).chr = s.chr := rfl
@[simp] theorem State.withInbox_out (s : State) (l : List Event) : (s.withInbox l).out = s.out := rfl
@[simp] theorem State.withInbox_pending (s : State) (l : List Event) : (s.withInbox l).pending = s.pending := rfl
@[simp] theorem State.withInbox_request (s : State) (l : List Event) : (s.withInbox l).request = s.request := rfl
@[simp] theorem State.withInbox_sent (s : State) (l : List Event) : (s.withInbox l).sent = s.sent := rfl
@[simp] theorem State.withInbox_answers (s : State) (l : List Event) : (s.withInbox l).answers = s.answers := rfl
@[simp] theorem State.withInbox_drawn (s : State) (l : List Event) : (s.withInbox l).drawn = s.drawn := rfl
@[simp] theorem State.withInbox_response (s : State) (l : List Event) : (s.withInbox l).response = s.response := rfl
@[simp] theorem State.withInbox_inbox (s : State) (l : List Event) : (s.withInbox l).inbox = l := rfl

@[simp] theorem State.withInbox_withInbox (s : State) (l l' : List Event) : (s.withInbox l).withInbox l' = s.withInbox l' := rfl
@[simp] theorem State.withInbox_self (s : State) : s.withInbox s.inbox = s := rfl
@[simp] theorem State.withInbox_readReg (s : State) (l : List Event) (r : Reg) : (s.withInbox l).readReg r = s.readReg r := by
  cases r <;> rfl

/-! ### writeReg: an accepted write, 20_memory.md R53 -/

@[simp] theorem State.writeReg_fault (s : State) (v : Word) (r : Reg) : (s.writeReg v r).fault = s.fault := by
  cases r <;> rfl
@[simp] theorem State.writeReg_proto (s : State) (v : Word) (r : Reg) : (s.writeReg v r).proto = s.proto := by
  cases r <;> rfl
@[simp] theorem State.writeReg_code (s : State) (v : Word) (r : Reg) : (s.writeReg v r).code = s.code := by
  cases r <;> rfl
@[simp] theorem State.writeReg_result (s : State) (v : Word) (r : Reg) : (s.writeReg v r).result = s.result := by
  cases r <;> rfl
@[simp] theorem State.writeReg_out (s : State) (v : Word) (r : Reg) : (s.writeReg v r).out = s.out := by
  cases r <;> rfl
@[simp] theorem State.writeReg_sent (s : State) (v : Word) (r : Reg) : (s.writeReg v r).sent = s.sent := by
  cases r <;> rfl
@[simp] theorem State.writeReg_request (s : State) (v : Word) (r : Reg) : (s.writeReg v r).request = s.request := by
  cases r <;> rfl
@[simp] theorem State.writeReg_answers (s : State) (v : Word) (r : Reg) : (s.writeReg v r).answers = s.answers := by
  cases r <;> rfl
@[simp] theorem State.writeReg_drawn (s : State) (v : Word) (r : Reg) : (s.writeReg v r).drawn = s.drawn := by
  cases r <;> rfl
@[simp] theorem State.writeReg_response (s : State) (v : Word) (r : Reg) : (s.writeReg v r).response = s.response := by
  cases r <;> rfl
@[simp] theorem State.writeReg_inbox (s : State) (v : Word) (r : Reg) : (s.writeReg v r).inbox = s.inbox := by
  cases r <;> rfl

/-- A write that is no CMD write leaves the command slot alone. -/
theorem State.writeReg_slot (s : State) (v : Word) (r : Reg) (h : r ≠ .cmd) :
    (s.writeReg v r).busy = s.busy ∧ (s.writeReg v r).done = s.done ∧ (s.writeReg v r).pending = s.pending := by
  cases r with
  | cmd => exact absurd rfl h
  | _ => exact ⟨rfl, rfl, rfl⟩

/-! ### answered: an answer of the entropy source, 43_id_generator.md R170 -/

@[simp] theorem State.answered_busy (s : State) (n : Nat) (v : Answer) : (s.answered n v).busy = s.busy := by
  unfold State.answered; (repeat' split) <;> rfl
@[simp] theorem State.answered_done (s : State) (n : Nat) (v : Answer) : (s.answered n v).done = s.done := by
  unfold State.answered; (repeat' split) <;> rfl
@[simp] theorem State.answered_fault (s : State) (n : Nat) (v : Answer) : (s.answered n v).fault = s.fault := by
  unfold State.answered; (repeat' split) <;> rfl
@[simp] theorem State.answered_proto (s : State) (n : Nat) (v : Answer) : (s.answered n v).proto = s.proto := by
  unfold State.answered; (repeat' split) <;> rfl
@[simp] theorem State.answered_code (s : State) (n : Nat) (v : Answer) : (s.answered n v).code = s.code := by
  unfold State.answered; (repeat' split) <;> rfl
@[simp] theorem State.answered_result (s : State) (n : Nat) (v : Answer) : (s.answered n v).result = s.result := by
  unfold State.answered; (repeat' split) <;> rfl
@[simp] theorem State.answered_exp (s : State) (n : Nat) (v : Answer) : (s.answered n v).exp = s.exp := by
  unfold State.answered; (repeat' split) <;> rfl
@[simp] theorem State.answered_len (s : State) (n : Nat) (v : Answer) : (s.answered n v).len = s.len := by
  unfold State.answered; (repeat' split) <;> rfl
@[simp] theorem State.answered_chr (s : State) (n : Nat) (v : Answer) : (s.answered n v).chr = s.chr := by
  unfold State.answered; (repeat' split) <;> rfl
@[simp] theorem State.answered_out (s : State) (n : Nat) (v : Answer) : (s.answered n v).out = s.out := by
  unfold State.answered; (repeat' split) <;> rfl
@[simp] theorem State.answered_pending (s : State) (n : Nat) (v : Answer) : (s.answered n v).pending = s.pending := by
  unfold State.answered; (repeat' split) <;> rfl
@[simp] theorem State.answered_response (s : State) (n : Nat) (v : Answer) : (s.answered n v).response = s.response := by
  unfold State.answered; (repeat' split) <;> rfl
@[simp] theorem State.answered_inbox (s : State) (n : Nat) (v : Answer) : (s.answered n v).inbox = s.inbox := by
  unfold State.answered; (repeat' split) <;> rfl

@[simp] theorem State.answered_sent (s : State) (n : Nat) (v : Answer) : (s.answered n v).sent = s.sent := by
  unfold State.answered; (repeat' split) <;> rfl

/-- No request in flight, or an answer to another one than it: nothing changes. -/
theorem State.answered_ignored (s : State) (n : Nat) (v : Answer) (h : s.request = none ∨ n ≠ s.sent) : s.answered n v = s := by
  unfold State.answered
  split
  · rfl
  · rename_i r hr
    exact if_neg (h.resolve_left (by simp [hr]))

theorem State.answered_taken (s : State) (v : Answer) (r : DrawRange) (h : s.request = some r) :
    s.answered s.sent v = { s with request := none, answers := s.answers ++ [v], drawn := s.drawn ++ [v] } := by
  simp [State.answered, h]

/-- All an answer can do. -/
theorem State.answered_cases (s : State) (n : Nat) (v : Answer) :
    ((s.request = none ∨ n ≠ s.sent) ∧ s.answered n v = s) ∨
    (∃ r, s.request = some r ∧ n = s.sent ∧
      s.answered n v = { s with request := none, answers := s.answers ++ [v], drawn := s.drawn ++ [v] }) := by
  by_cases h : s.request = none ∨ n ≠ s.sent
  · exact .inl ⟨h, s.answered_ignored n v h⟩
  · obtain ⟨h1, h2⟩ := not_or.1 h
    obtain ⟨r, hr⟩ := Option.ne_none_iff_exists'.1 h1
    obtain rfl := not_not.1 h2
    exact .inr ⟨r, hr, rfl, s.answered_taken v r hr⟩

end Sys2Proof.Machine
end

