-- ==== Sys2Proof/Laws/Ops.lean ====
section
/-! SUPPORT. What each shared operation can do, said once: the window, a host access, a command, the block's turn. -/

namespace Sys2Proof.Machine

/-! ### The window (20_memory.md R50, 10_state.md R20) -/

theorem windowOffset_base (off : Nat) (h : off < 0x80) : windowOffset (Config.base + off) = some off := by
  simp [windowOffset, Config.window, h]

theorem windowOffset_eq_some (addr off : Nat) (h : windowOffset addr = some off) :
    addr = Config.base + off ∧ off < 0x80 := by
  unfold windowOffset at h
  split at h
  · rename_i hw
    simp only [Option.some.injEq, Config.window] at h hw
    omega
  · cases h

theorem regAt_chr (k : Fin 10) : regAt (0x18 + 4 * k.val) = some (.chr k) := by
  revert k; decide

theorem regAt_out (k : Fin 10) : regAt (0x40 + 4 * k.val) = some (.out k) := by
  revert k; decide

theorem regAt_offset (r : Reg) : regAt r.offset = some r := by
  cases r with
  | chr k => exact regAt_chr k
  | out k => exact regAt_out k
  | _ => decide

theorem offset_aligned (r : Reg) : r.offset % 4 = 0 := by
  cases r <;> simp [Reg.offset]

theorem offset_lt (r : Reg) : r.offset < 0x68 := by
  cases r <;> simp [Reg.offset] <;> omega

theorem regAt_unmapped (off : Nat) (h : 0x68 ≤ off) : regAt off = none := by
  unfold regAt
  repeat rw [if_neg (by omega)]

theorem regAt_mapped (off : Nat) (ha : off % 4 = 0) (h : off < 0x68) : ∃ r, regAt off = some r ∧ r.offset = off := by
  have key : ∀ k < 26, ∃ r ∈ regAt (4 * k), r.offset = 4 * k := by decide
  obtain ⟨r, hr, ho⟩ := key (off / 4) (by omega)
  rw [show 4 * (off / 4) = off by omega] at hr ho
  exact ⟨r, hr, ho⟩

theorem readOnly_iff (r : Reg) : r.readOnly = true ↔ r.offset = 0x04 ∨ r.offset = 0x08 ∨ 0x40 ≤ r.offset := by
  cases r with
  | chr k => simp [Reg.readOnly, Reg.offset]; omega
  | _ => simp [Reg.readOnly, Reg.offset]

/-! ### Host accesses (20_memory.md R51 to R54) -/

/-- An access of an accepted shape at a register's address is an access to that register. -/
theorem hostAccess_reg (a : Access) (r : Reg) (s : State) (ha : a.addr = Config.base + r.offset) (hs : a.size = 4) :
    hostAccess a s = s.accessReg a r := by
  have hw := windowOffset_base r.offset (by have := offset_lt r; omega)
  simp [hostAccess, ha, hw, State.accessAt, hs, offset_aligned, regAt_offset]

theorem hostAccess_read (r : Reg) (s : State) :
    hostAccess (.read (Config.base + r.offset) 4) s = s.respond (.read false (s.readReg r)) :=
  hostAccess_reg _ r s rfl rfl

theorem hostAccess_write (r : Reg) (v : Word) (s : State) (hb : s.busy = false) (hr : r.readOnly = false) :
    hostAccess (.write (Config.base + r.offset) 4 v) s = (s.writeReg v r).respond (.write false) := by
  rw [hostAccess_reg _ r s rfl rfl]
  simp [State.accessReg, hb, hr]

theorem hostAccess_outside (a : Access) (s : State) (h : a.addr < Config.base ∨ Config.base + 0x80 ≤ a.addr) :
    hostAccess a s = s := by
  have hw : windowOffset a.addr = none := by
    unfold windowOffset Config.window
    rw [if_neg (by omega)]
  simp [hostAccess, hw]

theorem accessReg_cases (a : Access) (r : Reg) (s : State) :
    s.accessReg a r = s.protocolError a ∨
    (∃ d, s.accessReg a r = s.respond (.read false d)) ∨
    (∃ v, s.busy = false ∧ r.readOnly = false ∧
      s.accessReg a r = (s.writeReg v r).respond (.write false)) := by
  cases a with
  | read => exact .inr (.inl ⟨_, rfl⟩)
  | write addr size v =>
    by_cases hr : r.readOnly
    · simp [State.accessReg, hr]
    · by_cases hb : s.busy
      · simp [State.accessReg, hr, hb]
      · exact .inr (.inr ⟨v, by simpa using hb, by simpa using hr, by simp [State.accessReg, hr, hb]⟩)

/-- All a host access can do: nothing (outside the window), a protocol error, an answered read, or an accepted write. -/
theorem hostAccess_cases (a : Access) (s : State) :
    hostAccess a s = s ∨ hostAccess a s = s.protocolError a ∨
    (∃ d, hostAccess a s = s.respond (.read false d)) ∨
    (∃ v r, s.busy = false ∧ r.readOnly = false ∧
      hostAccess a s = (s.writeReg v r).respond (.write false)) := by
  unfold hostAccess
  split
  · rename_i off _
    unfold State.accessAt
    split
    · split
      · rename_i r _
        rcases accessReg_cases a r s with h | h | ⟨v, hv⟩
        · exact .inr (.inl h)
        · exact .inr (.inr (.inl h))
        · exact .inr (.inr (.inr ⟨v, r, hv⟩))
      · exact .inr (.inl rfl)
    · exact .inr (.inl rfl)
  · exact .inl rfl

/-- A busy block takes nothing from the bus but PROTO and the answer it gave (20_memory.md R54). -/
theorem hostAccess_busy (a : Access) (s : State) (hb : s.busy = true) :
    ∃ p resp, hostAccess a s = { s with proto := p, response := resp } := by
  rcases hostAccess_cases a s with h | h | ⟨d, h⟩ | ⟨v, r, hb', _⟩
  · exact ⟨s.proto, s.response, h⟩
  · exact ⟨true, _, h⟩
  · exact ⟨s.proto, _, h⟩
  · simp [hb] at hb'

/-! ### Commands (60_exceptions.md R202, R203) -/

theorem withDigits_ok (n : Nat) (f : Nat → Word) (s : State) (h : s.digitsOk n = true) :
    withDigits n f s = .next (s.completed (f (weightedSum (s.expDigits n)))) := by
  simp [withDigits, h, complete]

theorem withDigits_error (n : Nat) (f : Nat → Word) (s : State) (h : s.digitsOk n = false) :
    withDigits n f s = .next (s.failed .digit) := by
  simp [withDigits, h, raiseError]

/-- All the block's turn can do, from a state where PENDING decodes to a command or not. -/
theorem blockTurn_cases (s : State) :
    (s.busy = false ∧ blockTurn s = .next s) ∨
    (s.busy = true ∧ ∃ e, decode s.pending = .error e ∧ blockTurn s = .next (s.failed .opc)) ∨
    (s.busy = true ∧ ∃ i, decode s.pending = .ok i ∧ blockTurn s = exec i s) := by
  cases hb : s.busy
  · exact .inl ⟨rfl, by simp [blockTurn, hb]⟩
  · cases hd : decode s.pending with
    | error e => exact .inr (.inl ⟨rfl, e, rfl, by simp [blockTurn, hb, perform, hd, raiseError]⟩)
    | ok i => exact .inr (.inr ⟨rfl, i, rfl, by simp [blockTurn, hb, perform, hd]⟩)

end Sys2Proof.Machine
end

