-- ==== Sys2Proof/Laws/Access.lean ====
section
/-! SUPPORT. A host access, said once in the terms of the claims: outside the window, a breach, a read or an idle write. -/

namespace Sys2Proof.Machine

/-- Inside the window an access either breaks the protocol or is answered without an error. -/
theorem hostAccess_inWindow (s : State) (a : Access) (off : Nat) (ho : off < 0x80) (ha : a.addr = Config.base + off) :
    (Breach s a off ∧ hostAccess a s = s.protocolError a) ∨
    (¬ Breach s a off ∧ ∃ r, r.offset = off ∧ a.size = 4 ∧
      ((∃ addr size, a = .read addr size ∧ hostAccess a s = s.respond (.read false (s.readReg r))) ∨
       (∃ addr size v, a = .write addr size v ∧ s.busy = false ∧ r.readOnly = false ∧
        hostAccess a s = (s.writeReg v r).respond (.write false)))) := by
  have hw : hostAccess a s = s.accessAt a off := by simp [hostAccess, ha, windowOffset_base off ho]
  rw [hw]
  by_cases hs : a.size = 4 ∧ off % 4 = 0
  · by_cases h68 : off < 0x68
    · obtain ⟨r, hr, hro⟩ := regAt_mapped off hs.2 h68
      have hreg : s.accessAt a off = s.accessReg a r := by simp [State.accessAt, hs, hr]
      have hron := readOnly_iff r
      rw [hro] at hron
      rw [hreg]
      cases a with
      | read addr size =>
        refine .inr ⟨?_, r, hro, hs.1, .inl ⟨addr, size, rfl, rfl⟩⟩
        rintro (h | h | h | ⟨_, _, _, h, _⟩)
        · exact h hs.1
        · exact h hs.2
        · omega
        · cases h
      | write addr size v =>
        by_cases hr' : r.readOnly
        · exact .inl ⟨.inr (.inr (.inr ⟨addr, size, v, rfl, .inr (hron.1 hr')⟩)), by simp [State.accessReg, hr']⟩
        · by_cases hb : s.busy
          · exact .inl ⟨.inr (.inr (.inr ⟨addr, size, v, rfl, .inl hb⟩)), by simp [State.accessReg, hr', hb]⟩
          · refine .inr ⟨?_, r, hro, hs.1, .inr ⟨addr, size, v, rfl, by simpa using hb, by simpa using hr', by
              simp [State.accessReg, hr', hb]⟩⟩
            rintro (h | h | h | ⟨_, _, _, _, h | h⟩)
            · exact h hs.1
            · exact h hs.2
            · omega
            · exact hb h
            · exact hr' (hron.2 h)
    · exact .inl ⟨.inr (.inr (.inl (by omega))), by simp [State.accessAt, hs, regAt_unmapped off (by omega)]⟩
  · refine .inl ⟨?_, by rw [State.accessAt, if_neg hs]⟩
    by_cases h4 : a.size = 4
    · exact .inr (.inl fun h0 => hs ⟨h4, h0⟩)
    · exact .inl h4

/-- A host access, whole: outside the window nothing, inside it `hostAccess_inWindow`. -/
theorem hostAccess_window_cases (a : Access) (s : State) :
    ((∀ off < 0x80, a.addr ≠ Config.base + off) ∧ hostAccess a s = s) ∨
    (∃ off < 0x80, a.addr = Config.base + off) := by
  by_cases h : ∃ off < 0x80, a.addr = Config.base + off
  · exact .inr h
  · refine .inl ⟨fun off ho ha => h ⟨off, ho, ha⟩, hostAccess_outside a s ?_⟩
    by_contra hc
    exact h ⟨a.addr - Config.base, by omega, by omega⟩

end Sys2Proof.Machine
end

