-- ==== Sys2Proof/Laws/Checksum.lean ====
section
/-! SUPPORT. The checksum engine's digits and sums: the machine's lists against the written-out sums of Safety.lean. -/

namespace Sys2Proof.Machine

/-! ### Lists of registers -/

theorem vector10_toList {α : Type} (v : Vector α 10) :
    v.toList = [v[0], v[1], v[2], v[3], v[4], v[5], v[6], v[7], v[8], v[9]] := by
  apply List.ext_getElem (by simp)
  intro i h1 _
  have : i < 10 := by simpa using h1
  interval_cases i <;> simp

theorem vector11_toList {α : Type} (v : Vector α 11) :
    v.toList = [v[0], v[1], v[2], v[3], v[4], v[5], v[6], v[7], v[8], v[9], v[10]] := by
  apply List.ext_getElem (by simp)
  intro i h1 _
  have : i < 11 := by simpa using h1
  interval_cases i <;> simp

/-! ### Sums and digit checks (41_checksum_engine.md R121, R122) -/

theorem weightedSum_expDigits (s : State) : weightedSum (s.expDigits 11) = expSum s.exp := by
  simp [State.expDigits, vector11_toList, weightedSum, weights, expSum]
  omega

theorem weightedSum_expDigits_partial (s : State) : weightedSum (s.expDigits 10) = expPartialSum s.exp := by
  simp [State.expDigits, vector11_toList, weightedSum, weights, expPartialSum]
  omega

theorem digitsOk_iff (s : State) : s.digitsOk 11 = true ↔ ∀ i : Fin 11, s.exp[i].toNat ≤ 9 := by
  simp [State.digitsOk, State.expDigits, vector11_toList, Fin.forall_fin_succ]

theorem digitsOk_partial_iff (s : State) : s.digitsOk 10 = true ↔ ∀ i : Fin 11, i.val ≤ 9 → s.exp[i].toNat ≤ 9 := by
  simp [State.digitsOk, State.expDigits, vector11_toList, Fin.forall_fin_succ]

theorem weightedSum_le (e : List Nat) (h : ∀ d ∈ e, d ≤ 9) : weightedSum e ≤ 423 := by
  have key : ∀ (ws e : List Nat), (∀ d ∈ e, d ≤ 9) → (List.zipWith (fun d w => d * w) e ws).sum ≤ 9 * ws.sum := by
    intro ws
    induction ws with
    | nil => intro e _; cases e <;> simp
    | cons w ws ih =>
      intro e he
      cases e with
      | nil => simp
      | cons d ds =>
        simp only [List.zipWith_cons_cons, List.sum_cons]
        have h1 := ih ds (fun x hx => he x (List.mem_cons_of_mem _ hx))
        have h2 := Nat.mul_le_mul_right w (he d (List.mem_cons_self ..))
        omega
  exact key weights e h
end Sys2Proof.Machine
end

