-- ==== Sys2Proof/Laws/Validation.lean ====
section
/-! SUPPORT. Character classes, the table, expansions and check digits: what VALIDATE and GENERATE compute. -/

namespace Sys2Proof.Machine

theorem isUpper_iff (c : Word) : isUpper c = true ↔ UpperCode c := by
  simp [isUpper, UpperCode]

theorem isDigit_iff (c : Word) : isDigit c = true ↔ DigitCode c := by
  simp [isDigit, DigitCode]

theorem table_eq_letterCodes (c : Word) (h : UpperCode c) :
    (tableTens c).toNat = letterCodes.getD (c.toNat - 0x41) 0 / 10 ∧
    (tableUnits c).toNat = letterCodes.getD (c.toNat - 0x41) 0 % 10 := by
  obtain ⟨h1, h2⟩ := h
  have hc : c = BitVec.ofNat 32 (0x41 + (c.toNat - 0x41)) := by
    apply BitVec.eq_of_toNat_eq; simp; omega
  have key : ∀ k < 26, (tableTens (BitVec.ofNat 32 (0x41 + k))).toNat = letterCodes.getD k 0 / 10 ∧
      (tableUnits (BitVec.ofNat 32 (0x41 + k))).toNat = letterCodes.getD k 0 % 10 := by decide
  have := key (c.toNat - 0x41) (by omega)
  rwa [← hc] at this

theorem wellShaped_iff (v : Vector Word 10) :
    wellShaped v.toList = true ↔ UpperCode v[0] ∧ ∀ k : Fin 10, 1 ≤ k.val → DigitCode v[k] := by
  simp [vector10_toList, wellShaped, isUpper_iff, isDigit_iff, Fin.forall_fin_succ]

theorem weightedSum_expand (v : Vector Word 10) (h : UpperCode v[0]) :
    weightedSum (expand v.toList) = idSum v := by
  obtain ⟨h1, h2⟩ := table_eq_letterCodes v[0] h
  simp [vector10_toList, expand, weightedSum, weights, idSum, idPartialSum, digitVal, h1, h2]
  omega

theorem expand_le_nine (cs : List Word) (h : wellShaped cs = true) : ∀ d ∈ expand cs, d ≤ 9 := by
  cases cs with
  | nil => simp [expand]
  | cons c ds =>
    simp only [wellShaped, Bool.and_eq_true, isUpper_iff, List.all_eq_true, isDigit_iff] at h
    obtain ⟨h1, h2⟩ := table_eq_letterCodes c h.1
    have key : ∀ k < 26, letterCodes.getD k 0 / 10 ≤ 9 := by decide
    have := key (c.toNat - 0x41) (by have := h.1.2; omega)
    intro d hd
    simp only [expand, List.mem_cons, List.mem_map] at hd
    rcases hd with rfl | rfl | ⟨x, hx, rfl⟩
    · omega
    · omega
    · have := (h.2 x hx).2
      simp only [digitVal]; omega

theorem weightedSum_append_last (e : List Nat) (d : Nat) (h : e.length = 10) :
    weightedSum (e ++ [d]) = weightedSum e + d := by
  match e, h with
  | [a0, a1, a2, a3, a4, a5, a6, a7, a8, a9], _ =>
    simp [weightedSum, weights]; omega

theorem checkDigit_le (p : Nat) : checkDigit p ≤ 9 := by simp only [checkDigit]; omega

theorem checkDigit_passes (p : Nat) : (p + checkDigit p) % 10 = 0 := by simp only [checkDigit]; omega

theorem digitChar_spec (d : Nat) (h : d ≤ 9) : DigitCode (digitChar d) ∧ digitVal (digitChar d) = d := by
  simp [DigitCode, digitChar, digitVal]; omega

theorem finishId_toList (slots : List Word) (h : slots.length = 9) :
    (finishId slots).toList = slots ++ [digitChar (checkDigit (weightedSum (expand slots)))] := by
  apply List.ext_getElem (by simp [h])
  intro i h1 h2
  have hi : i < 10 := by simpa using h1
  simp [finishId, List.getD_eq_getElem?_getD, List.getElem?_eq_getElem h2]

theorem finishId_valid (slots : List Word) (hl : slots.length = 9) (hs : wellShaped slots = true) :
    validId (finishId slots).toList = true := by
  rw [finishId_toList slots hl]
  have hd := digitChar_spec _ (checkDigit_le (weightedSum (expand slots)))
  match slots, hl with
  | c :: ds, hl =>
    have hlen : (expand (c :: ds)).length = 10 := by simp [expand] at *; omega
    have happ : expand ((c :: ds) ++ [digitChar (checkDigit (weightedSum (expand (c :: ds))))])
        = expand (c :: ds) ++ [checkDigit (weightedSum (expand (c :: ds)))] := by
      simp [expand] at hd ⊢; exact hd.2
    simp only [wellShaped, Bool.and_eq_true, List.all_eq_true] at hs
    simp only [validId, happ, weightedSum_append_last _ _ hlen, passes, checkDigit_passes]
    simp [wellShaped, hs.1] at hl ⊢
    refine ⟨hl, hs.2, (isDigit_iff _).2 ?_⟩
    exact hd.1

end Sys2Proof.Machine
end

