-- ==== Sys2Proof/Laws/Generator.lean ====
section
/-! SUPPORT. The draws of GENERATE and the ID they complete. -/

namespace Sys2Proof.Machine

theorem DrawOutcome.cons_eq_drawn {c : Word} {o : DrawOutcome} {cs : List Word} (h : o.cons c = .drawn cs) :
    ∃ ds, o = .drawn ds ∧ cs = c :: ds := by
  cases o <;> simp_all [DrawOutcome.cons]

theorem DrawOutcome.cons_eq_waiting {c : Word} {o : DrawOutcome} {r : DrawRange} :
    o.cons c = .waiting r ↔ o = .waiting r := by
  cases o <;> simp [DrawOutcome.cons]

theorem DrawOutcome.cons_eq_outOfRange {c : Word} {o : DrawOutcome} :
    o.cons c = .outOfRange ↔ o = .outOfRange := by
  cases o <;> simp [DrawOutcome.cons]

theorem drawAll_drawn {rs : List DrawRange} {vs : List Answer} {cs : List Word} (h : drawAll rs vs = .drawn cs) :
    rs.length ≤ vs.length ∧ cs.length = rs.length ∧ ∀ k (hk : k < rs.length),
      (vs.getD k 0).toNat < (rs[k]).size ∧ cs.getD k 0 = (rs[k]).charOf (vs.getD k 0) := by
  induction rs generalizing vs cs with
  | nil => simp [drawAll] at h; simp [h]
  | cons r rs ih =>
    cases vs with
    | nil => simp [drawAll] at h
    | cons v vs =>
      simp only [drawAll] at h
      split at h
      · rename_i hv
        obtain ⟨ds, hds, rfl⟩ := DrawOutcome.cons_eq_drawn h
        obtain ⟨h1, h2, h3⟩ := ih hds
        refine ⟨by simpa using h1, by simpa using h2, ?_⟩
        intro k hk
        cases k with
        | zero => simp [hv]
        | succ k => simpa using h3 k (by simpa using hk)
      · cases h

theorem drawAll_of_inRange (rs : List DrawRange) (vs : List Answer) (hl : rs.length ≤ vs.length)
    (h : ∀ k (hk : k < rs.length), (vs.getD k 0).toNat < (rs[k]).size) : ∃ cs, drawAll rs vs = .drawn cs := by
  induction rs generalizing vs with
  | nil => exact ⟨[], by simp [drawAll]⟩
  | cons r rs ih =>
    cases vs with
    | nil => simp at hl
    | cons v vs =>
      obtain ⟨cs, hcs⟩ := ih vs (by simpa using hl) (fun k hk => h (k + 1) (Nat.succ_lt_succ hk))
      have hv : v.toNat < r.size := h 0 (Nat.succ_pos _)
      exact ⟨r.charOf v :: cs, by simp [drawAll, hcs, DrawOutcome.cons, hv]⟩

theorem drawAll_outOfRange (rs : List DrawRange) (vs : List Answer) (j : Nat) (hj : j < rs.length) (hv : j < vs.length)
    (h : ∀ k (hk : k < rs.length), k < j → (vs.getD k 0).toNat < (rs[k]).size) (hb : (rs[j]).size ≤ (vs.getD j 0).toNat) :
    drawAll rs vs = .outOfRange := by
  induction rs generalizing vs j with
  | nil => simp at hj
  | cons r rs ih =>
    cases vs with
    | nil => simp at hv
    | cons v vs =>
      cases j with
      | zero =>
        have hb : r.size ≤ v.toNat := hb
        simp [drawAll, Nat.not_lt.2 hb]
      | succ j =>
        have := ih vs j (Nat.lt_of_succ_lt_succ hj) (Nat.lt_of_succ_lt_succ hv)
          (fun k hk hkj => h (k + 1) (Nat.succ_lt_succ hk) (Nat.succ_lt_succ hkj)) hb
        have hv0 : v.toNat < r.size := h 0 (Nat.succ_pos _) (Nat.succ_pos _)
        simp [drawAll, this, DrawOutcome.cons, hv0]

theorem drawAll_waiting (rs : List DrawRange) (vs : List Answer) (hl : vs.length < rs.length)
    (h : ∀ k (hk : k < rs.length), k < vs.length → (vs.getD k 0).toNat < (rs[k]).size) :
    drawAll rs vs = .waiting rs[vs.length] := by
  induction rs generalizing vs with
  | nil => simp at hl
  | cons r rs ih =>
    cases vs with
    | nil => simp [drawAll]
    | cons v vs =>
      have := ih vs (Nat.lt_of_succ_lt_succ hl)
        (fun k hk hkj => h (k + 1) (Nat.succ_lt_succ hk) (Nat.succ_lt_succ hkj))
      have hv0 : v.toNat < r.size := h 0 (Nat.succ_pos _) (Nat.succ_pos _)
      simp [drawAll, this, DrawOutcome.cons, hv0]

theorem drawRanges_length (n : Nat) : (drawRanges n).length = 9 - n := by
  match n with
  | 0 => rfl
  | 1 => rfl
  | n + 2 => simp [drawRanges]

theorem drawRanges_getElem (n j : Nat) (h : j < (drawRanges n).length) : (drawRanges n)[j] = slotRange (n + j) := by
  match n with
  | 0 =>
    have : j < 9 := by simpa [drawRanges] using h
    interval_cases j <;> rfl
  | 1 =>
    have : j < 8 := by simpa [drawRanges] using h
    interval_cases j <;> rfl
  | n + 2 =>
    have h1 : n + 2 + j ≠ 1 := by omega
    simp [drawRanges, slotRange, h1]

theorem slotRange_size (k : Nat) : (slotRange k).size = slotSize k := by
  unfold slotRange slotSize; split <;> [rfl; (split <;> rfl)]

theorem slotRange_charOf (k : Nat) (v : Answer) :
    (slotRange k).charOf v = BitVec.ofNat 32 (slotFirst k + v.toNat) := by
  unfold slotRange slotFirst; split <;> [rfl; (split <;> rfl)]

theorem prefixChars_shaped_iff (s : State) (h1 : 1 ≤ s.len.toNat) (h9 : s.len.toNat ≤ 9) :
    wellShaped s.prefixChars = true ↔ UpperCode s.chr[0] ∧
      ∀ k : Fin 10, 1 ≤ k.val → k.val < s.len.toNat → DigitCode s.chr[k] := by
  obtain ⟨n, hn⟩ : ∃ n, s.len.toNat = n := ⟨_, rfl⟩
  simp only [State.prefixChars, vector10_toList, hn] at *
  interval_cases n <;> simp [wellShaped, isUpper_iff, isDigit_iff, Fin.forall_fin_succ]

theorem prefixError_eq_none_iff (s : State) : prefixError s = none ↔ GoodPrefix s := by
  unfold prefixError
  split
  · exact ⟨nofun, fun h => absurd h.length (by omega)⟩
  · split
    · rename_i h9 h0
      exact ⟨fun _ => ⟨by omega, by omega, fun k _ _ => by omega⟩, fun _ => rfl⟩
    · rename_i h9 h0
      have hs := prefixChars_shaped_iff s (by omega) (by omega)
      split
      · rename_i hw
        exact ⟨fun _ => ⟨by omega, fun _ => (hs.1 hw).1, (hs.1 hw).2⟩, fun _ => rfl⟩
      · rename_i hw
        exact ⟨nofun, fun h => absurd (hs.2 ⟨h.letter (by omega), h.digits⟩) hw⟩

/-- The nine slots of a completed GENERATE: prefix, then drawn characters. -/
theorem slots_spec (s : State) (cs : List Word) (hp : GoodPrefix s) (hd : s.drawState = .drawn cs) :
    (s.prefixChars ++ cs).length = 9 ∧
    (∀ k : Fin 10, k.val < s.len.toNat → (s.prefixChars ++ cs).getD k.val 0 = s.chr[k]) ∧
    (∀ k, s.len.toNat ≤ k → k < 9 → (s.answers.getD (k - s.len.toNat) 0).toNat < slotSize k ∧
      (s.prefixChars ++ cs).getD k 0 =
        BitVec.ofNat 32 (slotFirst k + (s.answers.getD (k - s.len.toNat) 0).toNat)) := by
  obtain ⟨_, h2, h3⟩ := drawAll_drawn hd
  rw [drawRanges_length] at h2
  have h9 := hp.length
  have hpl : s.prefixChars.length = s.len.toNat := by simp [State.prefixChars]; omega
  refine ⟨by simp [hpl, h2]; omega, ?_, ?_⟩
  · intro k hk
    rw [List.getD_eq_getElem?_getD, List.getElem?_append_left (by omega)]
    simp [State.prefixChars, hk]
  · intro k hk hk9
    obtain ⟨ha, hb⟩ := h3 (k - s.len.toNat) (by rw [drawRanges_length]; omega)
    rw [drawRanges_getElem, show s.len.toNat + (k - s.len.toNat) = k by omega] at ha hb
    rw [slotRange_size] at ha
    rw [slotRange_charOf] at hb
    refine ⟨ha, ?_⟩
    rw [List.getD_eq_getElem?_getD, List.getElem?_append_right (by omega), hpl, ← List.getD_eq_getElem?_getD]
    exact hb

theorem slotChar_shape (k : Nat) (v : Answer) (h : v.toNat < slotSize k) :
    (k = 0 → UpperCode (BitVec.ofNat 32 (slotFirst k + v.toNat))) ∧
    (1 ≤ k → DigitCode (BitVec.ofNat 32 (slotFirst k + v.toNat))) := by
  have := v.isLt
  refine ⟨?_, ?_⟩
  · rintro rfl
    simp [slotSize, slotFirst, UpperCode] at *; omega
  · intro hk
    have h0 : k ≠ 0 := by omega
    by_cases h1 : k = 1
    · subst h1
      simp [slotSize, slotFirst, DigitCode] at *; omega
    · simp [slotSize, slotFirst, DigitCode, h0, h1] at *; omega

theorem slots_shaped (s : State) (cs : List Word) (hp : GoodPrefix s) (hd : s.drawState = .drawn cs) :
    wellShaped (s.prefixChars ++ cs) = true := by
  obtain ⟨hl, hpre, hdr⟩ := slots_spec s cs hp hd
  have shape : ∀ k < 9, (k = 0 → UpperCode ((s.prefixChars ++ cs).getD k 0)) ∧
      (1 ≤ k → DigitCode ((s.prefixChars ++ cs).getD k 0)) := by
    intro k hk
    by_cases hkn : k < s.len.toNat
    · have := hpre ⟨k, by omega⟩ hkn
      rw [show (s.prefixChars ++ cs).getD k 0 = s.chr[(⟨k, by omega⟩ : Fin 10)] from this]
      refine ⟨?_, fun h1 => hp.digits ⟨k, by omega⟩ h1 hkn⟩
      rintro rfl
      exact hp.letter (by omega)
    · obtain ⟨hv, he⟩ := hdr k (by omega) hk
      rw [he]
      exact slotChar_shape k _ hv
  generalize s.prefixChars ++ cs = l at *
  cases l with
  | nil => simp at hl
  | cons c ds =>
    simp only [wellShaped, Bool.and_eq_true, List.all_eq_true, isUpper_iff, isDigit_iff]
    refine ⟨by simpa using (shape 0 (by omega)).1 rfl, ?_⟩
    intro d hd
    obtain ⟨i, hi, rfl⟩ := List.getElem_of_mem hd
    have := (shape (i + 1) (by simp at hl; omega)).2 (by omega)
    simpa [List.getD_eq_getElem?_getD, List.getElem?_eq_getElem hi] using this

theorem generated_valid (s : State) (cs : List Word) (hp : prefixError s = none) (hd : s.drawState = .drawn cs) :
    validId (finishId (s.prefixChars ++ cs)).toList = true :=
  have hp := (prefixError_eq_none_iff s).1 hp
  finishId_valid _ (slots_spec s cs hp hd).1 (slots_shaped s cs hp hd)

end Sys2Proof.Machine
end

