-- ==== Sys2Proof/Laws/Operands.lean ====
section
/-! SUPPORT. The packing of EXP and of STATUS, bit by bit. -/

namespace Sys2Proof.Machine

/-! ### EXP (10_state.md R29) -/

theorem packLo_unpackLo (v : Word) (e : Vector Nibble 11) : packLo (unpackLo v e) = v := by
  apply BitVec.eq_of_getLsbD_eq
  intro i hi
  simp only [packLo, unpackLo, fieldOf, Vector.getElem_mk, List.getElem_toArray, List.getElem_cons_zero,
    List.getElem_cons_succ, BitVec.getLsbD_append, BitVec.getLsbD_extractLsb']
  interval_cases i <;> simp

theorem packHi_unpackHi (v : Word) (e : Vector Nibble 11) : packHi (unpackHi v e) = v &&& 0x00000FFF#32 := by
  apply BitVec.eq_of_getLsbD_eq
  intro i hi
  simp only [packHi, unpackHi, fieldOf, Vector.getElem_mk, List.getElem_toArray, List.getElem_cons_zero,
    List.getElem_cons_succ, BitVec.getLsbD_append, BitVec.getLsbD_extractLsb', BitVec.getLsbD_and]
  interval_cases i <;> simp

theorem fieldOf_packLo (e : Vector Nibble 11) (i : Fin 8) : fieldOf (packLo e) i.val = e[i.val] := by
  apply BitVec.eq_of_getLsbD_eq
  intro j hj
  simp only [packLo, fieldOf, BitVec.getLsbD_extractLsb', BitVec.getLsbD_append]
  fin_cases i <;> interval_cases j <;> simp

theorem fieldOf_packHi (e : Vector Nibble 11) (i : Fin 3) : fieldOf (packHi e) i.val = e[8 + i.val] := by
  apply BitVec.eq_of_getLsbD_eq
  intro j hj
  simp only [packHi, fieldOf, BitVec.getLsbD_extractLsb', BitVec.getLsbD_append]
  fin_cases i <;> interval_cases j <;> simp

/-! ### STATUS (10_state.md R22) -/

theorem statusWord_bit (s : State) (i : Nat) : s.statusWord.getLsbD i =
    if i = 0 then s.busy else if i = 1 then s.done else if i = 2 then s.fault else if i = 3 then s.proto
    else if i < 8 then false else s.code.getLsbD (i - 8) := by
  simp only [State.statusWord, BitVec.getLsbD_append]
  by_cases h : i < 12
  · interval_cases i <;> simp
  · have h1 : ¬ i < 1 := by omega
    have h2 : i ≠ 0 := by omega
    have h3 : s.code.getLsbD (i - 8) = false := BitVec.getLsbD_of_ge _ _ (by omega)
    have h4 : ¬ i - 1 - 1 - 1 - 1 - 4 < 4 := by omega
    have h5 : ¬ i - 1 - 1 - 1 - 1 < 4 := by omega
    have h6 : ¬ i - 1 - 1 - 1 < 1 := by omega
    have h7 : ¬ i - 1 - 1 < 1 := by omega
    have h8 : ¬ i - 1 < 1 := by omega
    simp [h1, h2, h3, h4, h5, h6, h7, h8, show i ≠ 1 by omega, show i ≠ 2 by omega, show i ≠ 3 by omega,
      show ¬ i < 8 by omega]

end Sys2Proof.Machine
end

