-- ==== Sys2Proof/Laws/PerInstr.lean ====
section
/-! SUPPORT. For each command, as syntax: its word's fields are its opcode below 28 zero bits, and they are well-formed
(30_encoding.md R80, R81). -/

namespace Sys2Proof.Laws.Encoding

/-- The fields of the command's word are its OPC and a zero MBZ, and are well-formed. -/
def Statement (i : Instr) : Prop :=
  fieldsOf (encode i) = { opc := i.opcode, mbz := 0 } ∧ (fieldsOf (encode i)).wellFormed = true

theorem lookup : Statement .lookup := ⟨by decide, by decide⟩
theorem wsum : Statement .wsum := ⟨by decide, by decide⟩
theorem check : Statement .check := ⟨by decide, by decide⟩
theorem solve : Statement .solve := ⟨by decide, by decide⟩
theorem validate : Statement .validate := ⟨by decide, by decide⟩
theorem generate : Statement .generate := ⟨by decide, by decide⟩

end Sys2Proof.Laws.Encoding
end

