-- ==== Sys2Proof/Laws/Step.lean ====
section
/-! SUPPORT. Everything a command and a step can do, said once. -/

namespace Sys2Proof.Machine

/-- A checksum command's two outcomes, its result bounded by a bound of `f` on sums of digits. -/
theorem withDigits_cases (n : Nat) (f : Nat → Word) (s : State) (hf : ∀ w ≤ 423, (f w).toNat ≤ 423) :
    (∃ r, r.toNat ≤ 423 ∧ withDigits n f s = .next (s.completed r)) ∨ withDigits n f s = .next (s.failed .digit) := by
  cases h : s.digitsOk n
  · exact .inr (withDigits_error n f s h)
  · refine .inl ⟨_, hf _ (weightedSum_le _ ?_), withDigits_ok n f s h⟩
    simpa [State.digitsOk] using h

theorem boolWord_le (b : Bool) : (boolWord b).toNat ≤ 423 := by cases b <;> decide

/-- All a command can do: a success commit with a small result, an error commit, GENERATE's commit with OUT, or GENERATE's
next request. -/
theorem exec_cases (i : Instr) (s : State) :
    (∃ r, i ≠ .generate ∧ r.toNat ≤ 423 ∧ exec i s = .next (s.completed r)) ∨
    (∃ e, (i = .generate → prefixError s ≠ none ∨ s.drawState = .outOfRange) ∧ exec i s = .next (s.failed e)) ∨
    (∃ cs, i = .generate ∧ prefixError s = none ∧ s.drawState = .drawn cs ∧
      exec i s = .next ((s.withOut (finishId (s.prefixChars ++ cs))).completed 0)) ∨
    (∃ r, i = .generate ∧ prefixError s = none ∧ s.drawState = .waiting r ∧ exec i s = .next (s.requested r)) := by
  have engine (i : Instr) (n : Nat) (f : Nat → Word) (hi : i ≠ .generate) (hf : ∀ w ≤ 423, (f w).toNat ≤ 423)
      (h : exec i s = withDigits n f s) :
      (∃ r, i ≠ .generate ∧ r.toNat ≤ 423 ∧ exec i s = .next (s.completed r)) ∨
      (∃ e, (i = .generate → prefixError s ≠ none ∨ s.drawState = .outOfRange) ∧ exec i s = .next (s.failed e)) := by
    rcases withDigits_cases n f s hf with ⟨r, hr, he⟩ | he
    · exact .inl ⟨r, hi, hr, h.trans he⟩
    · exact .inr ⟨.digit, fun hg => absurd hg hi, h.trans he⟩
  cases i with
  | lookup =>
    by_cases h : isUpper s.chr[0]
    · refine .inl ⟨_, by simp, ?_, by simp [exec, execLookup, h, complete]; rfl⟩
      have := (tableTens s.chr[0] ++ tableUnits s.chr[0]).isLt
      simp only [BitVec.toNat_setWidth]
      omega
    · exact .inr (.inl ⟨.letter, by simp, by simp [exec, execLookup, h, raiseError]⟩)
  | wsum =>
    refine Or.imp_right .inl (engine .wsum 11 _ (by simp) (fun w hw => ?_) rfl)
    simp [sumWord]; omega
  | check => exact Or.imp_right .inl (engine .check 11 _ (by simp) (fun w _ => boolWord_le _) rfl)
  | solve =>
    refine Or.imp_right .inl (engine .solve 10 (fun p => BitVec.ofNat 32 (checkDigit p)) (by simp) (fun w _ => ?_) rfl)
    have := checkDigit_le w
    simp only [BitVec.toNat_ofNat]; omega
  | validate =>
    refine .inl ?_
    simp only [exec, execValidate, complete]
    split
    · exact ⟨0, by simp, by decide, rfl⟩
    · split
      · exact ⟨_, by simp, boolWord_le _, rfl⟩
      · exact ⟨0, by simp, by decide, rfl⟩
  | generate =>
    simp only [exec, execGenerate, complete, raiseError]
    split
    · rename_i e he
      exact .inr (.inl ⟨e, fun _ => .inl (by simp [he]), rfl⟩)
    · rename_i hp
      split
      · rename_i cs hd
        exact .inr (.inr (.inl ⟨cs, trivial, hp, hd, rfl⟩))
      · rename_i hd
        exact .inr (.inl ⟨.entropy, fun _ => .inr hd, rfl⟩)
      · rename_i r hd
        exact .inr (.inr (.inr ⟨r, trivial, hp, hd, rfl⟩))

theorem code_ne_zero (e : CmdError) : e.code ≠ 0 := by cases e <;> decide

theorem performEnabled_iff (s : State) : performEnabled s = true ↔ s.busy = true ∧
    ¬ (decode s.pending = .ok .generate ∧ prefixError s = none ∧ ∃ r, s.drawState = .waiting r) := by
  unfold performEnabled drawsAnswered
  cases s.busy <;> split <;> simp_all

/-- The block's turn, by what it leaves: nothing done while idle; a commit; GENERATE's next request. -/
theorem blockTurn_next (s t : State) (h : blockTurn s = .next t) :
    (s.busy = false ∧ t = s) ∨
    (performEnabled s = true ∧ ((∃ r, r.toNat ≤ 423 ∧ t = s.completed r) ∨ (∃ e, t = s.failed e) ∨
      ∃ cs, prefixError s = none ∧ s.drawState = .drawn cs ∧ t = (s.withOut (finishId (s.prefixChars ++ cs))).completed 0)) ∨
    (s.busy = true ∧ performEnabled s = false ∧ decode s.pending = .ok .generate ∧ prefixError s = none ∧
      ∃ r, s.drawState = .waiting r ∧ t = s.requested r) := by
  have hen := performEnabled_iff s
  rcases blockTurn_cases s with ⟨hb, ht⟩ | ⟨hb, e, he, ht⟩ | ⟨hb, i, hi, ht⟩ <;> rw [ht] at h
  · cases h; exact .inl ⟨hb, rfl⟩
  · cases h; exact .inr (.inl ⟨hen.2 ⟨hb, by simp [he]⟩, .inr (.inl ⟨_, rfl⟩)⟩)
  · rcases exec_cases i s with ⟨r, hg, hr, hx⟩ | ⟨e, hg, hx⟩ | ⟨cs, rfl, hp, hd, hx⟩ | ⟨r, rfl, hp, hd, hx⟩ <;>
      (rw [hx] at h; cases h)
    · exact .inr (.inl ⟨hen.2 ⟨hb, by simp [hi, hg]⟩, .inl ⟨r, hr, rfl⟩⟩)
    · refine .inr (.inl ⟨hen.2 ⟨hb, ?_⟩, .inr (.inl ⟨e, rfl⟩)⟩)
      rintro ⟨hdec, hp, r, hd⟩
      rw [hi] at hdec
      rcases hg (by simpa using hdec) with h | h
      · exact h hp
      · simp [hd] at h
    · exact .inr (.inl ⟨hen.2 ⟨hb, by simp [hd]⟩, .inr (.inr ⟨cs, hp, hd, rfl⟩)⟩)
    · refine .inr (.inr ⟨hb, ?_, hi, hp, r, hd, rfl⟩)
      rw [Bool.eq_false_iff, ne_eq, hen]
      exact fun h => h.2 ⟨hi, hp, r, hd⟩

theorem step_cons (s : State) (e : Event) (rest : List Event) (h : s.inbox = e :: rest) :
    step s = deliver e (s.withInbox rest) := by simp [step, h]

theorem step_nil (s : State) (h : s.inbox = []) : step s = blockTurn s := by simp [step, h, quietTurn]

@[simp] theorem step_withInbox_cons (s : State) (e : Event) (rest : List Event) :
    step (s.withInbox (e :: rest)) = deliver e (s.withInbox rest) := rfl

/-- A step that gives a next state is the block's turn on an empty inbox, or the head event's effect. -/
theorem step_cases (s t : State) (h : step s = .next t) :
    (s.inbox = [] ∧ blockTurn s = .next t) ∨
    (∃ rest, s.inbox = .blockTurn :: rest ∧ blockTurn (s.withInbox rest) = .next t) ∨
    (∃ a rest, s.inbox = .access a :: rest ∧ t = hostAccess a (s.withInbox rest)) ∨
    (∃ n v rest, s.inbox = .answer n v :: rest ∧ t = (s.withInbox rest).answered n v) ∨
    (∃ rest, s.inbox = .reset :: rest ∧ t = (s.withInbox rest).afterRst) := by
  unfold step at h
  split at h
  · exact .inl ⟨‹_›, h⟩
  · rename_i e rest he
    cases e with
    | access a => exact .inr (.inr (.inl ⟨a, rest, he, by simpa [deliver] using h.symm⟩))
    | blockTurn => exact .inr (.inl ⟨rest, he, h⟩)
    | answer n v => exact .inr (.inr (.inr (.inl ⟨n, v, rest, he, by simpa [deliver] using h.symm⟩)))
    | reset => exact .inr (.inr (.inr (.inr ⟨rest, he, by simpa [deliver] using h.symm⟩)))
    | accessInReset => simp [deliver] at h

/-- A run, one step at a time. -/
theorem core_run_succ (k : Nat) (s u : State) (h : step s = .next u) : core.run (k + 1) s = core.run k u := by
  have hs : core.step s = .next u := h
  simp [Host.Core.run, hs]

/-- The block's turn sends at most one request, and only when none is in flight. -/
theorem blockTurn_sent (s t : State) (h : blockTurn s = .next t) :
    (t.sent = s.sent ∧ (t.request = none ∨ t.request = s.request)) ∨
    (s.request = none ∧ t.request ≠ none ∧ t.sent = s.sent + 1) := by
  rcases blockTurn_next s t h with ⟨_, rfl⟩ | ⟨_, ⟨r, _, rfl⟩ | ⟨e, rfl⟩ | ⟨cs, _, _, rfl⟩⟩ | ⟨_, _, _, _, r, _, rfl⟩
  · exact .inl ⟨rfl, .inr rfl⟩
  · exact .inl ⟨rfl, .inl rfl⟩
  · exact .inl ⟨rfl, .inl rfl⟩
  · exact .inl ⟨rfl, .inl rfl⟩
  · cases hr : s.request with
    | none => rw [s.requested_first r hr]; exact .inr ⟨rfl, by simp, rfl⟩
    | some r' => rw [s.requested_again r r' hr]; exact .inl ⟨rfl, .inr hr⟩

/-- A step never forgets a request sent; the request in flight after it was in flight before, or is a new one. -/
theorem step_sent (s t : State) (h : step s = .next t) :
    s.sent ≤ t.sent ∧ (t.request = none ∨ (t.request = s.request ∧ t.sent = s.sent) ∨ s.sent < t.sent) := by
  have turn (u : State) (h : blockTurn u = .next t) :
      u.sent ≤ t.sent ∧ (t.request = none ∨ (t.request = u.request ∧ t.sent = u.sent) ∨ u.sent < t.sent) := by
    rcases blockTurn_sent u t h with ⟨h1, h2⟩ | ⟨_, _, h3⟩
    · exact ⟨h1.ge, h2.imp_right fun h2 => .inl ⟨h2, h1⟩⟩
    · exact ⟨by omega, .inr (.inr (by omega))⟩
  rcases step_cases s t h with ⟨_, h⟩ | ⟨rest, _, h⟩ | ⟨a, rest, _, rfl⟩ | ⟨n, v, rest, _, rfl⟩ | ⟨rest, _, rfl⟩
  · exact turn s h
  · exact turn (s.withInbox rest) h
  · have hk : (hostAccess a (s.withInbox rest)).sent = s.sent ∧ (hostAccess a (s.withInbox rest)).request = s.request := by
      rcases hostAccess_cases a (s.withInbox rest) with h | h | ⟨d, h⟩ | ⟨v, r, _, _, h⟩ <;> rw [h] <;> simp [State.protocolError]
    exact ⟨hk.1.ge, .inr (.inl ⟨hk.2, hk.1⟩)⟩
  · rcases (s.withInbox rest).answered_cases n v with ⟨_, h⟩ | ⟨r, _, _, h⟩ <;> rw [h]
    · exact ⟨Nat.le_refl _, .inr (.inl ⟨rfl, rfl⟩)⟩
    · exact ⟨Nat.le_refl _, .inl rfl⟩
  · exact ⟨Nat.le_refl _, .inl rfl⟩

/-- The invariant says nothing of the events to come. -/
theorem State.Inv.withInbox {s : State} (hi : s.Inv) (l : List Event) : (s.withInbox l).Inv :=
  ⟨hi.1, hi.2, hi.3, hi.4, hi.5, hi.6, hi.7, hi.8, hi.9, hi.10, hi.11⟩

/-- An ended run, by its events: none of them is an access. -/
theorem State.runEnded_iff (s : State) : s.runEnded = true ↔ (∀ e ∈ s.inbox, e.isAccess = false) ∧ s.busy = false := by
  simp [State.runEnded]

/-- What is left to come of an ended run is an ended run. -/
theorem State.runEnded_tail (s : State) (e : Event) (rest : List Event) (hi : s.inbox = e :: rest) (h : s.runEnded = true) :
    e.isAccess = false ∧ (s.withInbox rest).runEnded = true := by
  simp_all [State.runEnded]

end Sys2Proof.Machine
end

