-- ==== Sys2Proof/Tests/Slice0.lean ====
section
/-! SUPPORT. Tests against spec/30_encoding.md and the vectors of spec/95_test_vectors.md, and for every statement of
Certificates/Slice0/Obligations.lean that has hypotheses a `witness_` theorem that meets them at boundary values. -/

namespace Sys2Proof.Tests

open Sys2Proof.Machine

/-! ## Small states -/

/-- CHR[0..9] from numbers, 0 where the list ends. -/
def codes (l : List Nat) : Vector Word 10 := Vector.ofFn (fun k => BitVec.ofNat 32 (l.getD k.val 0))

/-- Reset, with LEN and CHR. -/
def withString (n : Nat) (l : List Nat) : State := { State.reset with len := BitVec.ofNat 32 n, chr := codes l }

/-- Reset, with EXP_LO and EXP_HI written. -/
def withExp (lo hi : Word) : State := { State.reset with exp := unpackHi hi (unpackLo lo State.reset.exp) }

/-- A GENERATE's operands and the answers given so far. -/
def withDraws (n : Nat) (l : List Nat) (vs : List Answer) : State := { withString n l with answers := vs, drawn := vs }

/-- The command in flight. -/
def inFlight (i : Instr) (s : State) : State := { s with busy := true, pending := encode i }

/-- The outcome is a next state with this property. -/
def leads (r : Result) (p : State → Bool) : Bool :=
  match r with
  | .next t => p t
  | .fault _ => false
  | .refused _ => false

/-- RESULT, CODE and FAULT of a state. -/
def shows (result : Nat) (code : Nat) (fault : Bool) (t : State) : Bool :=
  decide (t.result.toNat = result) && decide (t.code.toNat = code) && (t.fault == fault) && !t.busy && t.done

/-- "A123456789" (95_test_vectors.md L1-1). -/
def a123456789 : List Nat := [0x41, 0x31, 0x32, 0x33, 0x34, 0x35, 0x36, 0x37, 0x38, 0x39]

/-- "A231415927" (95_test_vectors.md L1-6). -/
def a231415927 : List Nat := [0x41, 0x32, 0x33, 0x31, 0x34, 0x31, 0x35, 0x39, 0x32, 0x37]

/-! ## WellFormed: an ill-formed word for each check (30_encoding.md R80, R82) -/

theorem test_wellFormed_commands : ∀ k : Fin 6, CommandWord.wellFormed { opc := BitVec.ofNat 4 (k.val + 1), mbz := 0 } = true := by
  decide
theorem test_illFormed_mbz_low : CommandWord.wellFormed { opc := 1, mbz := 1 } = false := by decide
theorem test_illFormed_mbz_high : CommandWord.wellFormed { opc := 1, mbz := 0x8000000 } = false := by decide
theorem test_illFormed_opc_zero : CommandWord.wellFormed { opc := 0, mbz := 0 } = false := by decide
theorem test_illFormed_opc_seven : CommandWord.wellFormed { opc := 7, mbz := 0 } = false := by decide

/-! ## Decode: the words of 30_encoding.md R81, bit by bit, and the illegal words of 95_test_vectors.md L2-OPC -/

theorem test_decode_lookup : decode 0b00000000000000000000000000000001#32 = .ok .lookup := by decide
theorem test_decode_wsum : decode 0b00000000000000000000000000000010#32 = .ok .wsum := by decide
theorem test_decode_check : decode 0b00000000000000000000000000000011#32 = .ok .check := by decide
theorem test_decode_solve : decode 0b00000000000000000000000000000100#32 = .ok .solve := by decide
theorem test_decode_validate : decode 0b00000000000000000000000000000101#32 = .ok .validate := by decide
theorem test_decode_generate : decode 0b00000000000000000000000000000110#32 = .ok .generate := by decide

theorem test_decode_illegal_opc : decode 0x00000000#32 = .error .opcUndefined ∧ decode 0x00000007#32 = .error .opcUndefined ∧
    decode 0x0000000F#32 = .error .opcUndefined := by decide
theorem test_decode_illegal_mbz : decode 0x00000011#32 = .error .mbzNonzero ∧ decode 0x00000101#32 = .error .mbzNonzero ∧
    decode 0x80000001#32 = .error .mbzNonzero := by decide

theorem test_decodeTableWord : decodeTableWord 32 6 = some .generate ∧ decodeTableWord 32 0 = none ∧
    decodeTableWord 32 0x100000006 = none := by decide

/-- The first step after reset runs the word placed by `withFetchWord`: an illegal one commits ERR_OPC (L2-OPC: STATUS 0x106),
and CHECK passes on the reset expansion (L2-RESET). -/
theorem test_first_step : leads (step (State.reset.withFetchWord 32 0x11)) (fun t => t.statusWord == 0x00000106) = true ∧
    leads (step (State.reset.withFetchWord 32 3)) (shows 1 0 false) = true := by decide

/-! ## The commands (95_test_vectors.md L1, L2) -/

theorem test_lookup_Z : leads (exec .lookup (withString 0 [0x5A])) (shows 0x33 0 false) = true := by decide
theorem test_lookup_high_bits : leads (exec .lookup (withString 0 [0x141])) (shows 0 2 true) = true := by decide

theorem test_wsum_A123456789 : leads (exec .wsum (withExp 0x65432101 0x00000987)) (shows 130 0 false) = true := by decide
theorem test_wsum_maximum : leads (exec .wsum (withExp 0x99999999 0x00000999)) (shows 423 0 false) = true := by decide

theorem test_check_Z123456789 : leads (exec .check (withExp 0x65432133 0x00000987)) (shows 0 0 false) = true := by decide
theorem test_check_last_field : leads (exec .check (withExp 0 0x00000A00)) (shows 0 3 true) = true := by decide

theorem test_solve_zero : leads (exec .solve (withExp 0 0x00000F00)) (shows 0 0 false) = true := by decide
theorem test_solve_bad_field : leads (exec .solve (withExp 0 0x000000A0)) (shows 0 3 true) = true := by decide

theorem test_validate_A123456789 : leads (exec .validate (withString 10 a123456789)) (shows 1 0 false) = true := by decide
theorem test_validate_length : leads (exec .validate (withString 0xFFFFFFFF a123456789)) (shows 0 0 false) = true := by decide

theorem test_generate_A2 : leads (exec .generate (withDraws 2 [0x41, 0x32] [3, 1, 4, 1, 5, 9, 2]))
    (fun t => shows 0 0 false t && t.out == codes a231415927) = true := by decide
theorem test_generate_entropy : leads (exec .generate (withDraws 2 [0x41, 0x31] [0, 0, 0, 10]))
    (fun t => shows 0 6 true t && t.out == codes []) = true := by decide

/-! ## The window -/

/-- 95_test_vectors.md L2-WSUM: the reserved bits of EXP_HI are dropped. -/
theorem test_expHi_reserved : (State.reset.writeReg 0xFFFFF987 .expHi).readReg .expHi = 0x00000987 := by decide

/-- 10_state.md R20: the registers and their offsets at the edges of CHR and OUT. -/
theorem test_offsets : regAt 0x14 = some .len ∧ regAt 0x18 = some (.chr 0) ∧ regAt 0x3C = some (.chr 9) ∧
    regAt 0x40 = some (.out 0) ∧ regAt 0x64 = some (.out 9) ∧ regAt 0x68 = none ∧ regAt 0x7C = none := by decide

/-- 95_test_vectors.md L2-BUS: a write of LEN at its own offset is taken while idle and dropped while busy. -/
theorem test_write_len : (State.reset.accessAt (.write 0 4 7) 0x14).len = 7 ∧
    ((inFlight .check State.reset).accessAt (.write 0 4 7) 0x14).len = 0 ∧
    ((inFlight .check State.reset).accessAt (.write 0 4 7) 0x14).proto = true := by decide

/-! ## Witnesses: states and operands that meet the hypotheses of each statement -/

theorem witness_PerformRunsTheCommandOrErrOpc :
    (∃ s : State, s.busy = true ∧ s.pending = encode .generate) ∧
    (∃ s : State, s.busy = true ∧ s.pending = 0 ∧ ¬ ((s.pending.extractLsb' 4 28).toNat = 0 ∧
      1 ≤ (s.pending.extractLsb' 0 4).toNat ∧ (s.pending.extractLsb' 0 4).toNat ≤ 6)) ∧
    (∃ s : State, s.busy = true ∧ s.pending = 7 ∧ ¬ ((s.pending.extractLsb' 4 28).toNat = 0 ∧
      1 ≤ (s.pending.extractLsb' 0 4).toNat ∧ (s.pending.extractLsb' 0 4).toNat ≤ 6)) ∧
    (∃ s : State, s.busy = true ∧ s.pending = 0x80000001 ∧ ¬ ((s.pending.extractLsb' 4 28).toNat = 0 ∧
      1 ≤ (s.pending.extractLsb' 0 4).toNat ∧ (s.pending.extractLsb' 0 4).toNat ≤ 6)) :=
  ⟨⟨inFlight .generate State.reset, by decide⟩, ⟨State.reset.issued 0, by decide⟩, ⟨State.reset.issued 7, by decide⟩,
    ⟨State.reset.issued 0x80000001, by decide⟩⟩

theorem witness_BlockTurnRunsTheDecodedCommand :
    (∃ (s : State) (rest : List Event), s.busy = true ∧ decode s.pending = .ok .lookup ∧ s.inbox = .blockTurn :: rest) ∧
    (∃ s : State, s.busy = true ∧ decode s.pending = .ok .generate ∧ s.inbox = []) :=
  ⟨⟨(inFlight .lookup State.reset).withInbox [.blockTurn], [], by decide⟩, ⟨inFlight .generate State.reset, by decide⟩⟩

theorem witness_IdleBlockWaits :
    (∃ s : State, s.busy = false ∧ s.inbox = []) ∧ (∃ s : State, s.busy = false ∧ s.inbox = [.blockTurn]) :=
  ⟨⟨State.reset, by decide⟩, ⟨State.reset.withInbox [.blockTurn], by decide⟩⟩

theorem witness_TurnCommitsExactlyWhenEnabled :
    (∃ s : State, s.busy = true ∧ performEnabled s = true) ∧
    (∃ s : State, s.busy = true ∧ performEnabled s = false ∧ s.request = none) ∧
    (∃ s : State, s.busy = true ∧ performEnabled s = false ∧ s.request = some .digit) :=
  ⟨⟨inFlight .generate (withString 9 a123456789), by decide⟩, ⟨inFlight .generate (withString 8 a123456789), by decide⟩,
    ⟨(inFlight .generate (withString 8 a123456789)).requested .digit, by decide⟩⟩

theorem witness_LookupFollowsTheLetterTable :
    (∃ s : State, s.chr[0].toNat = 0x41 + 0 ∧ letterCodes[0]? = some 10) ∧
    (∃ s : State, s.chr[0].toNat = 0x41 + 25 ∧ letterCodes[25]? = some 33) ∧
    (∃ s : State, s.chr[0].toNat < 0x41 ∨ 0x5A < s.chr[0].toNat) ∧
    (∃ s : State, s.chr[0].toNat = 0x40) ∧ (∃ s : State, s.chr[0].toNat = 0x5B) :=
  ⟨⟨withString 0 [0x41], by decide⟩, ⟨withString 0 [0x5A], by decide⟩, ⟨withString 0 [0x40], by decide⟩,
    ⟨withString 0 [0x40], by decide⟩, ⟨withString 0 [0x5B], by decide⟩⟩

theorem witness_TableCodesAreTenToThirtyFiveOnce :
    (∃ k : Word, UpperCode k ∧ (tableTens k).toNat * 10 + (tableUnits k).toNat = 10) ∧
    (∃ k : Word, UpperCode k ∧ (tableTens k).toNat * 10 + (tableUnits k).toNat = 35) :=
  ⟨⟨0x41, by unfold UpperCode; decide⟩, ⟨0x4F, by unfold UpperCode; decide⟩⟩

theorem witness_WsumReturnsTheWeightedSum :
    (∃ s : State, (∀ i : Fin 11, s.exp[i].toNat ≤ 9) ∧ expSum s.exp = 423) ∧
    (∃ s : State, 9 < s.exp[(0 : Fin 11)].toNat) ∧ (∃ s : State, 9 < s.exp[(10 : Fin 11)].toNat) :=
  ⟨⟨withExp 0x99999999 0x00000999, by decide⟩, ⟨withExp 0xA 0, by decide⟩, ⟨withExp 0 0xA00, by decide⟩⟩

theorem witness_CheckTestsTheSumModuloTen :
    (∃ s : State, (∀ i : Fin 11, s.exp[i].toNat ≤ 9) ∧ expSum s.exp % 10 = 0) ∧
    (∃ s : State, (∀ i : Fin 11, s.exp[i].toNat ≤ 9) ∧ expSum s.exp % 10 ≠ 0) ∧
    (∃ s : State, 9 < s.exp[(0 : Fin 11)].toNat) ∧ (∃ s : State, 9 < s.exp[(10 : Fin 11)].toNat) :=
  ⟨⟨withExp 0x65432101 0x00000987, by decide⟩, ⟨withExp 0x99999999 0x00000999, by decide⟩,
    ⟨withExp 0xA 0, by decide⟩, ⟨withExp 0 0xA00, by decide⟩⟩

theorem witness_SolveReturnsTheCheckDigit :
    (∃ s : State, (∀ i : Fin 11, i.val ≤ 9 → s.exp[i].toNat ≤ 9) ∧ s.exp[(10 : Fin 11)].toNat = 15) ∧
    (∃ (s : State) (i : Fin 11), i.val = 9 ∧ i.val ≤ 9 ∧ 9 < s.exp[i].toNat) ∧
    (∃ (s : State) (i : Fin 11), i.val = 0 ∧ i.val ≤ 9 ∧ 9 < s.exp[i].toNat) :=
  ⟨⟨withExp 0 0xF00, by decide⟩, ⟨withExp 0 0xA0, 9, by decide⟩, ⟨withExp 0xF 0, 0, by decide⟩⟩

theorem witness_WeightedSumsNeverWrap :
    (∃ e : List Nat, (∀ d ∈ e, d ≤ 9) ∧ e.length = 11 ∧ e.length ≤ 11 ∧ weightedSum e = 423) ∧
    (∃ e : List Nat, (∀ d ∈ e, d ≤ 9) ∧ e.length = 10 ∧ e.length ≤ 10 ∧ weightedSum e = 414) :=
  ⟨⟨List.replicate 11 9, by decide⟩, ⟨List.replicate 10 9, by decide⟩⟩

theorem witness_SolvedDigitIsTheOnlyOneThatPasses :
    ∃ (s u : State) (d : Nibble), (∀ i : Fin 11, i.val ≤ 9 → s.exp[i].toNat ≤ 9) ∧ d.toNat ≤ 9 ∧ u.exp = s.exp.set 10 d :=
  ⟨withExp 0x99999999 0xF99, withExp 0x99999999 0x999, 9, by decide⟩

theorem witness_ValidateAgreesWithCheck :
    ∃ s u : State, s.len = 10 ∧ UpperCode s.chr[0] ∧ (∀ k : Fin 10, 1 ≤ k.val → DigitCode s.chr[k]) ∧
      u.exp.toList.map BitVec.toNat = expand s.chr.toList :=
  ⟨withString 10 a123456789, withExp 0x65432101 0x00000987, by decide, by unfold UpperCode; decide,
    by unfold DigitCode; decide, by decide⟩

theorem witness_BadPrefixDrawsNothing :
    (∃ s : State, s.len.toNat = 10 ∧ 9 < s.len.toNat) ∧ (∃ s : State, s.len.toNat = 0xFFFFFFFF ∧ 9 < s.len.toNat) ∧
    (∃ s : State, 1 ≤ s.len.toNat ∧ s.len.toNat ≤ 9 ∧ ¬ UpperCode s.chr[0]) ∧
    (∃ (s : State) (k : Fin 10), 1 ≤ s.len.toNat ∧ s.len.toNat ≤ 9 ∧ 1 ≤ k.val ∧ k.val < s.len.toNat ∧ ¬ DigitCode s.chr[k]) ∧
    (∃ s : State, s.len.toNat = 0 ∧ GoodPrefix s) ∧ (∃ s : State, s.len.toNat = 9 ∧ GoodPrefix s) :=
  ⟨⟨withString 10 [], by decide⟩, ⟨withString 0xFFFFFFFF [], by decide⟩,
    ⟨withString 1 [0x61], by unfold UpperCode; decide⟩,
    ⟨withString 9 (a123456789.set 8 0x78), 8, by unfold DigitCode; decide⟩,
    ⟨State.reset, by decide, (prefixError_eq_none_iff _).1 (by decide)⟩,
    ⟨withString 9 a123456789, by decide, (prefixError_eq_none_iff _).1 (by decide)⟩⟩

theorem inRange_of_all (s : State) (m : Nat)
    (h : (List.range m).all (fun j => decide ((s.answers.getD j 0).toNat < slotSize (s.len.toNat + j))) = true) :
    AnswersInRange s m := by
  intro j hj
  simpa using List.all_eq_true.1 h j (List.mem_range.2 hj)

theorem witness_GenerateCompletesThePrefix :
    (∃ s : State, s.len.toNat = 0 ∧ GoodPrefix s ∧ 9 - s.len.toNat ≤ s.answers.length ∧ AnswersInRange s (9 - s.len.toNat)) ∧
    (∃ s : State, s.len.toNat = 9 ∧ GoodPrefix s ∧ 9 - s.len.toNat ≤ s.answers.length ∧ AnswersInRange s (9 - s.len.toNat)) :=
  ⟨⟨withDraws 0 [] [25, 1, 9, 9, 9, 9, 9, 9, 9], by decide, (prefixError_eq_none_iff _).1 (by decide), by decide,
      inRange_of_all _ _ (by decide)⟩,
    ⟨withString 9 a123456789, by decide, (prefixError_eq_none_iff _).1 (by decide), by decide, inRange_of_all _ _ (by decide)⟩⟩

theorem witness_FirstBadAnswerIsErrEntropy :
    (∃ (s : State) (j : Nat), s.len.toNat = 0 ∧ j = 0 ∧ GoodPrefix s ∧ j < s.answers.length ∧ s.len.toNat + j < 9 ∧
      AnswersInRange s j ∧ slotSize (s.len.toNat + j) ≤ (s.answers.getD j 0).toNat) ∧
    (∃ (s : State) (j : Nat), s.len.toNat + j = 8 ∧ GoodPrefix s ∧ j < s.answers.length ∧ s.len.toNat + j < 9 ∧
      AnswersInRange s j ∧ slotSize (s.len.toNat + j) ≤ (s.answers.getD j 0).toNat) :=
  ⟨⟨withDraws 0 [] [26], 0, by decide, by decide, (prefixError_eq_none_iff _).1 (by decide), by decide, by decide,
      inRange_of_all _ _ (by decide), by decide⟩,
    ⟨withDraws 2 [0x41, 0x31] [0, 0, 0, 9, 9, 9, 10], 6, by decide, (prefixError_eq_none_iff _).1 (by decide), by decide, by decide,
      inRange_of_all _ _ (by decide), by decide⟩⟩

theorem witness_GenerateWaitsForItsNextDraw :
    (∃ s : State, s.len.toNat = 0 ∧ GoodPrefix s ∧ s.len.toNat + s.answers.length < 9 ∧ AnswersInRange s s.answers.length ∧
      s.request = none) ∧
    (∃ s : State, s.len.toNat + s.answers.length = 8 ∧ GoodPrefix s ∧ s.len.toNat + s.answers.length < 9 ∧
      AnswersInRange s s.answers.length ∧ s.request = some .digit) :=
  ⟨⟨State.reset, by decide, (prefixError_eq_none_iff _).1 (by decide), by decide, inRange_of_all _ _ (by decide), rfl⟩,
    ⟨(withDraws 0 [] [25, 1, 9, 9, 9, 9, 9, 9]).requested .digit, by decide, (prefixError_eq_none_iff _).1 (by decide), by decide,
      inRange_of_all _ _ (by decide), rfl⟩⟩

/-- A GENERATE in flight that commits with CODE 0, and the state it leaves. -/
theorem generate_commits : ∃ s t : State, s.busy = true ∧ decode s.pending = .ok .generate ∧ performEnabled s = true ∧
    exec .generate s = .next t ∧ t.busy = false ∧ t.code = 0 :=
  ⟨inFlight .generate (withString 9 a123456789), _, by decide, by decide, by decide, rfl, rfl, rfl⟩

theorem witness_GeneratedIdIsValidAndKeepsItsPrefix :
    ∃ s t : State, s.busy = true ∧ exec .generate s = .next t ∧ t.busy = false ∧ t.code = 0 :=
  have ⟨s, t, hb, _, _, h⟩ := generate_commits
  ⟨s, t, hb, h⟩

theorem witness_CategoryDigitIsDrawnAsOneOrTwo :
    (∃ s t : State, s.len.toNat = 1 ∧ s.busy = true ∧ exec .generate s = .next t ∧ t.busy = false ∧ t.code = 0) ∧
    (∃ s t : State, s.len.toNat = 2 ∧ s.busy = true ∧ exec .generate s = .next t ∧ t.busy = false ∧ t.code = 0) ∧
    (∃ d : Word, d = 0x30 ∧ DigitCode d) ∧ (∃ d : Word, d = 0x39 ∧ DigitCode d) :=
  ⟨⟨inFlight .generate (withDraws 1 [0x46] [1, 9, 9, 9, 9, 9, 9, 9]), _, by decide, rfl, rfl, rfl, rfl⟩,
    ⟨inFlight .generate (withDraws 2 [0x41, 0x38] [0, 0, 0, 0, 0, 0, 0]), _, by decide, rfl, rfl, rfl, rfl⟩,
    ⟨0x30, by unfold DigitCode; decide⟩, ⟨0x39, by unfold DigitCode; decide⟩⟩

theorem witness_OutChangesAllAtOnceOrNotAtAll :
    (∃ s t : State, exec .generate s = .next t) ∧ (∃ s t : State, exec .lookup s = .next t) :=
  ⟨have ⟨s, t, _, _, _, h, _⟩ := generate_commits; ⟨s, t, h⟩, State.reset, _, rfl⟩

/-- A GENERATE in flight before its first draw, with its answers to come. -/
def answered (n : Nat) (l : List Nat) (vs : List Answer) : State :=
  (inFlight .generate (withString n l)).withInbox (drawEvents State.reset.sent vs)

theorem lt_of_all (vs : List Answer) (n : Nat)
    (h : (List.range vs.length).all (fun j => decide ((vs.getD j 0).toNat < slotSize (n + j))) = true) :
    ∀ j, j < vs.length → (vs.getD j 0).toNat < slotSize (n + j) := by
  intro j hj
  simpa using List.all_eq_true.1 h j (List.mem_range.2 hj)

theorem witness_AnsweredGenerateRunsToItsCommit :
    (∃ (s : State) (vs : List Answer), vs.length = 0 ∧ s.busy = true ∧ decode s.pending = .ok .generate ∧ GoodPrefix s ∧
      s.answers = [] ∧ s.request = none ∧ vs.length = 9 - s.len.toNat ∧
      (∀ j, j < vs.length → (vs.getD j 0).toNat < slotSize (s.len.toNat + j)) ∧
      s.inbox = drawEvents s.sent vs) ∧
    (∃ (s : State) (vs : List Answer), vs.length = 9 ∧ s.busy = true ∧ decode s.pending = .ok .generate ∧ GoodPrefix s ∧
      s.answers = [] ∧ s.request = none ∧ vs.length = 9 - s.len.toNat ∧
      (∀ j, j < vs.length → (vs.getD j 0).toNat < slotSize (s.len.toNat + j)) ∧
      s.inbox = drawEvents s.sent vs) :=
  ⟨⟨answered 9 a123456789 [], [], by decide, by decide, by decide, (prefixError_eq_none_iff _).1 (by decide), rfl, rfl, by decide,
      lt_of_all _ _ (by decide), rfl⟩,
    ⟨answered 0 [] [25, 1, 9, 9, 9, 9, 9, 9, 9], [25, 1, 9, 9, 9, 9, 9, 9, 9], by decide, by decide, by decide,
      (prefixError_eq_none_iff _).1 (by decide), rfl, rfl, by decide, lt_of_all _ _ (by decide), rfl⟩⟩

theorem witness_CommandsKeepOperandsProtoAndBus :
    (∃ s t : State, exec .validate s = .next t ∧ s.fault = true) ∧ (∃ s t : State, exec .lookup s = .next t ∧ s.fault = false) :=
  ⟨⟨{ State.reset with fault := true }, _, rfl, rfl⟩, ⟨State.reset, _, rfl, rfl⟩⟩

theorem witness_CommandsAreStateless :
    ∃ s₁ s₂ t₁ t₂ : State, s₁ ≠ s₂ ∧ decode s₁.pending = decode s₂.pending ∧ s₁.exp = s₂.exp ∧ s₁.len = s₂.len ∧ s₁.chr = s₂.chr ∧
      s₁.answers = s₂.answers ∧ performEnabled s₁ = true ∧ performEnabled s₂ = true ∧
      blockTurn s₁ = .next t₁ ∧ blockTurn s₂ = .next t₂ :=
  ⟨inFlight .check State.reset, { inFlight .check State.reset with fault := true, result := 5 }, _, _, by decide, by decide, by decide,
    by decide, by decide, by decide, by decide, by decide, rfl, rfl⟩

theorem witness_CommitsWriteTheirRecord :
    ∃ s t : State, s.busy = true ∧ exec .generate s = .next t ∧ t.busy = false ∧ t.code = 0 :=
  witness_GeneratedIdIsValidAndKeepsItsPrefix

theorem witness_CommitsCloseTheEntropyPort :
    (∃ s t : State, s.answers ≠ [] ∧ s.busy = true ∧ exec .generate s = .next t ∧ t.busy = false) ∧
    (∃ s t : State, s.busy = true ∧ exec .lookup s = .next t ∧ t.busy = false) :=
  ⟨⟨inFlight .generate (withDraws 2 [0x41, 0x31] [0, 0, 0, 10]), _, by decide, by decide, rfl, rfl⟩,
    ⟨inFlight .lookup State.reset, _, by decide, rfl, rfl⟩⟩

/-- One access for each kind of breach: shape, alignment, unmapped, read-only, busy. -/
theorem witness_BadAccessIsRecordedAndDropped :
    (∃ (s : State) (a : Access) (off : Nat), off = 0x04 ∧ off < 0x80 ∧ a.addr = Config.base + off ∧ a.size ≠ 4 ∧ Breach s a off) ∧
    (∃ (s : State) (a : Access) (off : Nat), off = 0x7F ∧ off < 0x80 ∧ a.addr = Config.base + off ∧ off % 4 ≠ 0 ∧ Breach s a off) ∧
    (∃ (s : State) (a : Access) (off : Nat), off = 0x68 ∧ off < 0x80 ∧ a.addr = Config.base + off ∧ Breach s a off) ∧
    (∃ (s : State) (a : Access) (off : Nat), off = 0x04 ∧ off < 0x80 ∧ a.addr = Config.base + off ∧ s.busy = false ∧ Breach s a off) ∧
    (∃ (s : State) (a : Access) (off : Nat), off = 0x00 ∧ off < 0x80 ∧ a.addr = Config.base + off ∧ s.busy = true ∧ Breach s a off) :=
  ⟨⟨State.reset, .read (Config.base + 0x04) 1, 0x04, rfl, by decide, rfl, by decide, .inl (by decide)⟩,
    ⟨State.reset, .read (Config.base + 0x7F) 4, 0x7F, rfl, by decide, rfl, by decide, .inr (.inl (by decide))⟩,
    ⟨State.reset, .read (Config.base + 0x68) 4, 0x68, rfl, by decide, rfl, .inr (.inr (.inl (by decide)))⟩,
    ⟨State.reset, .write (Config.base + 0x04) 4 0, 0x04, rfl, by decide, rfl, rfl,
      .inr (.inr (.inr ⟨_, _, _, rfl, .inr (.inl rfl)⟩))⟩,
    ⟨inFlight .check State.reset, .write (Config.base + 0x00) 4 1, 0x00, rfl, by decide, rfl, rfl,
      .inr (.inr (.inr ⟨_, _, _, rfl, .inl rfl⟩))⟩⟩

theorem witness_IdleWritesReachTheirRegister : ∃ s : State, s.busy = false := ⟨State.reset, rfl⟩

theorem witness_EveryMappedOffsetIsOneRegister :
    (0x64 % 4 = 0 ∧ 0x64 < 0x68 ∧ Reg.offset (.out 9) = 0x64) ∧ (0x68 % 4 = 0 ∧ 0x68 ≤ 0x68) := by decide

/-- BASE is open and may be 0; below a window that does not start at 0 there is an address. -/
theorem witness_AccessOutsideTheWindowIsNotOurs :
    (∃ a : Access, a.addr = Config.base + 0x80 ∧ Config.base + 0x80 ≤ a.addr) ∧
    (0 < Config.base → ∃ a : Access, a.addr < Config.base) :=
  ⟨⟨.read (Config.base + 0x80) 4, rfl, Nat.le_refl _⟩, fun h => ⟨.read 0 4, h⟩⟩

theorem witness_InFlightCommandCannotBeChanged :
    ∃ s t : State, s.busy = true ∧ step s = .next t ∧ t.busy = true :=
  ⟨inFlight .generate State.reset, _, rfl, rfl, rfl⟩

theorem witness_PseudoInstructionsLoadTheOperands : ∃ s : State, s.busy = false := ⟨State.reset, rfl⟩

theorem witness_RacingWriteAdmitsBothOrders :
    (∃ s : State, performEnabled s = true ∧ decode s.pending = .ok .validate) ∧
    (∃ s : State, performEnabled s = true ∧ decode s.pending = .ok .generate) ∧
    (∃ s : State, performEnabled s = true ∧ s.pending = 0) :=
  ⟨⟨inFlight .validate State.reset, by decide⟩, ⟨inFlight .generate (withString 9 a123456789), by decide⟩,
    ⟨State.reset.issued 0, by decide⟩⟩

theorem witness_CallPollsUntilTheCommit :
    (∃ (s : State) (i : Instr) (again : Nat), again = 0 ∧ s.busy = false ∧ performEnabled (s.issued (encode i)) = true ∧
      s.inbox = (hostEvents (call i again)).take (again + 1) ++ .blockTurn :: (hostEvents (call i again)).drop (again + 1)) ∧
    (∃ (s : State) (i : Instr) (again k : Nat), 1 ≤ k ∧ k ≤ again ∧ s.busy = false ∧ performEnabled (s.issued (encode i)) = true ∧
      s.inbox = (hostEvents (call i again)).take (again + 1) ++ .blockTurn :: (hostEvents (call i again)).drop (again + 1)) :=
  ⟨⟨State.reset.withInbox _, .check, 0, rfl, rfl, by decide, rfl⟩,
    ⟨(withString 9 a123456789).withInbox _, .generate, 1, 1, by decide, by decide, rfl, by decide, rfl⟩⟩

/-- A write of a command word to CMD, as the next event of an idle block. -/
theorem issue_step (s : State) (v : Word) (rest : List Event) (hb : s.busy = false) :
    step (s.withInbox (.access (.write (Config.base + Reg.cmd.offset) 4 v) :: rest)) =
      .next (((s.withInbox rest).issued v).respond (.write false)) := by
  rw [step_withInbox_cons, deliver, hostAccess_write .cmd v (s.withInbox rest) hb rfl]; rfl

theorem witness_BusyChangesOnlyAtIssueCommitAndReset :
    (∃ s t : State, step s = .next t ∧ s.busy = false ∧ t.busy = true) ∧
    (∃ s t : State, s.inbox = [] ∧ step s = .next t ∧ s.busy = true ∧ t.busy = false) ∧
    (∃ s t : State, s.inbox = [.reset] ∧ step s = .next t ∧ s.busy = true ∧ t.busy = false) :=
  ⟨⟨State.reset.withInbox [_], _, issue_step State.reset 5 [] rfl, rfl, rfl⟩,
    ⟨inFlight .check State.reset, _, rfl, rfl, rfl, rfl⟩,
    ⟨(inFlight .check State.reset).withInbox [.reset], _, rfl, rfl, rfl, rfl⟩⟩

theorem witness_FaultIsSetByErrorCommitsOnly :
    (∃ s t : State, step s = .next t ∧ s.fault = false ∧ t.fault = true ∧ s.busy = true ∧ t.busy = false ∧ t.code ≠ 0) ∧
    (∃ s t : State, step s = .next t ∧ s.fault = true ∧ t.fault = false) ∧
    (∃ s t : State, exec .validate s = .next t) :=
  ⟨⟨inFlight .lookup State.reset, _, rfl, rfl, rfl, rfl, rfl, by decide⟩,
    ⟨(State.reset.failed .opc).withInbox [.reset], _, rfl, rfl, rfl⟩, ⟨State.reset, _, rfl⟩⟩

/-- An unmapped read as the next event. -/
theorem breach_step (s : State) : step (s.withInbox [.access (.read (Config.base + 0x68) 4)]) =
    .next ((s.withInbox []).protocolError (.read (Config.base + 0x68) 4)) := by
  have hw : windowOffset (Access.addr (.read (Config.base + 0x68) 4)) = some 0x68 := windowOffset_base 0x68 (by decide)
  rw [step_withInbox_cons, deliver, hostAccess, hw]
  rfl

theorem witness_ProtoIsSetByBadAccessesOnly :
    (∃ s t : State, step s = .next t ∧ s.proto = false ∧ t.proto = true) ∧
    (∃ s t : State, step s = .next t ∧ s.proto = true ∧ t.proto = false) :=
  ⟨⟨State.reset.withInbox [_], _, breach_step State.reset, rfl, rfl⟩,
    ⟨{ State.reset with proto := true, inbox := [.reset] }, _, rfl, rfl, rfl⟩⟩

theorem witness_CleanEndMeansNoErrorInTheRun :
    ∃ (k m : Nat) (s u t : State), s.resetFree = true ∧ core.run k s = .next u ∧ core.run m u = .next t ∧ t.wellBehaved = true :=
  ⟨1, 1, inFlight .check State.reset, _, _, by decide, rfl, rfl, by decide⟩

/-- 70_reset_and_hazards.md R241: a run with a turn, an answer and a reset to come has ended; one with an access to come, or with
BUSY = 1, has not. -/
theorem test_runEnded : (State.reset.withInbox [.blockTurn, .answer 1 3, .reset]).runEnded = true ∧
    (State.reset.withInbox [.blockTurn, .access (.read 0 4)]).runEnded = false ∧
    (inFlight .check State.reset).runEnded = false := by decide

theorem witness_ResultsStayUntilTheNextCommit :
    (∃ s t : State, step s = .next t ∧ t.result ≠ s.result ∧ s.done = false ∧ t.done = true) ∧
    (∃ s t : State, step s = .next t ∧ s.done = true ∧ t.done = false) :=
  ⟨⟨inFlight .check State.reset, _, rfl, by decide, rfl, rfl⟩,
    ⟨(State.reset.completed 1).withInbox [_], _, issue_step (State.reset.completed 1) 5 [] rfl, rfl, rfl⟩⟩

theorem witness_OperandsChangeOnlyByIdleWrites :
    ∃ s t : State, step s = .next t ∧ t.len ≠ s.len :=
  ⟨State.reset.withInbox [.access (.write (Config.base + Reg.len.offset) 4 7)], _,
    by rw [step_withInbox_cons, deliver, hostAccess_write .len 7 _ rfl rfl], by decide⟩

/-- A GENERATE that waits, withdrawn by `rst`, and a later one that waits with a request of its own (95_test_vectors.md L2-RESET). -/
def afterWithdrawal : State :=
  (inFlight .generate ((inFlight .generate State.reset).requested .letter).afterRst).requested .letter

/-- The late answer is ignored; the answer to the later request is taken (70_reset_and_hazards.md R232). -/
theorem test_late_answer : (afterWithdrawal.answered 1 25).request = some .letter ∧ (afterWithdrawal.answered 1 25).drawn = [] ∧
    (afterWithdrawal.answered 2 25).request = none ∧ (afterWithdrawal.answered 2 25).drawn = [25] := by decide

theorem witness_AnswerIsTakenOnlyByARequest :
    (∃ (s : State) (n : Nat) (rest : List Event), s.inbox = .answer n 31 :: rest ∧ s.request = none) ∧
    (∃ (s : State) (n : Nat) (rest : List Event), s.inbox = .answer n 31 :: rest ∧ s.request = some .letter ∧ n ≠ s.sent) ∧
    (∃ (s : State) (n : Nat) (rest : List Event), s.inbox = .answer n 0 :: rest ∧ s.request = some .letter ∧ n = s.sent) :=
  ⟨⟨State.reset.withInbox [.answer 0 31], 0, [], rfl, rfl⟩, ⟨afterWithdrawal.withInbox [.answer 1 31], 1, [], rfl, rfl, by decide⟩,
    ⟨afterWithdrawal.withInbox [.answer 2 0], 2, [], rfl, rfl, rfl⟩⟩

/-- A GENERATE that waits for a draw, with a reset to come, then the issue of another GENERATE, its turn, and the late answer. -/
def beforeWithdrawal : State :=
  ((inFlight .generate State.reset).requested .digit).withInbox
    [.reset, .access (.write (Config.base + Reg.cmd.offset) 4 (encode .generate)), .blockTurn, .answer 1 3]

/-- The same after the reset and the issue. -/
def laterGenerate : State :=
  ((beforeWithdrawal.afterRst.withInbox [.blockTurn, .answer 1 3]).issued (encode .generate)).respond (.write false)

theorem laterGenerate_step : step laterGenerate = .next ((laterGenerate.withInbox [.answer 1 3]).requested .letter) := rfl

/-- With the late answer the very next event, and with it while a later GENERATE waits for its own request's answer. -/
theorem witness_WithdrawnRequestIsNeverAnswered :
    (∃ (s t u : State) (rest rest' : List Event), s.request = some .digit ∧ s.inbox = .reset :: rest ∧ step s = .next t ∧
      core.run 0 t = .next u ∧ u.inbox = .answer s.sent 3 :: rest') ∧
    (∃ (s t u : State) (rest rest' : List Event), s.request = some .digit ∧ s.inbox = .reset :: rest ∧ step s = .next t ∧
      core.run 2 t = .next u ∧ u.request = some .letter ∧ u.inbox = .answer s.sent 3 :: rest') :=
  ⟨⟨((inFlight .generate State.reset).requested .digit).withInbox [.reset, .answer 1 3], _, _, _, _, rfl, rfl, rfl, rfl, rfl⟩,
    ⟨beforeWithdrawal, _, _, _, [], rfl, rfl, rfl,
      (core_run_succ 1 _ laterGenerate (issue_step beforeWithdrawal.afterRst (encode .generate) [.blockTurn, .answer 1 3] rfl)).trans
        (core_run_succ 0 _ _ laterGenerate_step), rfl, rfl⟩⟩

theorem witness_RstZeroesEverythingAndDropsTheCommand :
    ∃ (s : State) (rest rest' : List Event), s.busy = true ∧ s.request = some .digit ∧ s.inbox = .reset :: rest ∧
      rest = .answer s.sent 3 :: rest' :=
  ⟨((inFlight .generate State.reset).requested .digit).withInbox [.reset, .answer 1 3], [.answer 1 3], [], rfl, rfl, rfl, rfl⟩

theorem witness_AccessDuringResetIsRefused :
    ∃ (s : State) (a : Access) (rest : List Event), s.inbox = .accessInReset a :: rest :=
  ⟨State.reset.withInbox [.accessInReset (.read 0 4)], .read 0 4, [], rfl⟩

/-- Reset with any events to come. -/
theorem reset_withInbox_inv (l : List Event) : (State.reset.withInbox l).Inv :=
  State.Inv.withInbox (s := State.reset)
    ⟨by decide, by decide, by decide, by decide, by decide, fun _ _ => ⟨rfl, rfl, rfl, rfl⟩, .inl rfl,
      fun h => by simp [State.reset] at h, fun r h => by simp [State.reset] at h, fun h => absurd rfl h, by simp [State.reset]⟩ l

/-- Reset, and a GENERATE that waits for its first answer. -/
theorem witness_EveryStepKeepsTheInvariant :
    (∃ s t : State, s.Inv ∧ step s = .next t) ∧ (∃ s t : State, s.request = some .letter ∧ s.Inv ∧ step s = .next t) :=
  ⟨⟨State.reset, _, reset_withInbox_inv [], rfl⟩,
    ⟨(inFlight .generate State.reset).requested .letter, _, rfl, ⟨by decide, by decide, by decide, by decide, by decide,
      fun h => by simp [inFlight] at h, .inl rfl, fun _ => ⟨rfl, by decide, by decide⟩, fun r h => by cases h; rfl,
      fun h => absurd rfl h, by simp [inFlight, State.reset]⟩, rfl⟩⟩

theorem witness_EndedRunKeepsItsObservation :
    (∃ s t : State, s.inbox = [] ∧ s.Inv ∧ s.runEnded = true ∧ step s = .next t) ∧
    (∃ s t : State, s.inbox = [.answer 1 3, .blockTurn] ∧ s.Inv ∧ s.runEnded = true ∧ step s = .next t) ∧
    (∃ s t : State, s.inbox = [.reset] ∧ s.Inv ∧ s.runEnded = true ∧ step s = .next t) :=
  ⟨⟨State.reset, _, rfl, reset_withInbox_inv [], by decide, rfl⟩,
    ⟨State.reset.withInbox [.answer 1 3, .blockTurn], _, rfl, reset_withInbox_inv _, by decide, rfl⟩,
    ⟨State.reset.withInbox [.reset], _, rfl, reset_withInbox_inv _, by decide, rfl⟩⟩

end Sys2Proof.Tests
end

/-! SUPPORT. The facts that the proofs about the block's registers share: what a command's outcome depends on, and what
one step can do to the registers. -/

namespace Sys2Proof.Machine

/-! ### What a command's outcome depends on (10_state.md R38) -/

/-- All that a command reads: the operand registers and the answers given to it so far. -/
structure SameOperands (s₁ s₂ : State) : Prop where
  exp : s₁.exp = s₂.exp
  len : s₁.len = s₂.len
  chr : s₁.chr = s₂.chr
  answers : s₁.answers = s₂.answers

/-- Two outcomes of one kind with the same values: the second does to `s₂` what the first does to `s₁`. -/
inductive SameOutcome (s₁ s₂ : State) : Result → Result → Prop
  | success (r : Word) : SameOutcome s₁ s₂ (.next (s₁.completed r)) (.next (s₂.completed r))
  | error (e : CmdError) : SameOutcome s₁ s₂ (.next (s₁.failed e)) (.next (s₂.failed e))
  | generated (o : Vector Word 10) :
      SameOutcome s₁ s₂ (.next ((s₁.withOut o).completed 0)) (.next ((s₂.withOut o).completed 0))
  | request (r : DrawRange) : SameOutcome s₁ s₂ (.next (s₁.requested r)) (.next (s₂.requested r))

namespace SameOperands

variable {s₁ s₂ : State} (h : SameOperands s₁ s₂)
include h

theorem expDigits_eq (n : Nat) : s₁.expDigits n = s₂.expDigits n := by
  simp only [State.expDigits, h.exp]

theorem prefixChars_eq : s₁.prefixChars = s₂.prefixChars := by
  simp only [State.prefixChars, h.chr, h.len]

theorem prefixError_eq : prefixError s₁ = prefixError s₂ := by
  simp only [prefixError, h.len, h.prefixChars_eq]

theorem drawState_eq : s₁.drawState = s₂.drawState := by
  simp only [State.drawState, h.len, h.answers]

theorem withDigits_same (n : Nat) (f : Nat → Word) : SameOutcome s₁ s₂ (withDigits n f s₁) (withDigits n f s₂) := by
  have hd : s₁.digitsOk n = s₂.digitsOk n := by simp only [State.digitsOk, h.expDigits_eq]
  cases hok : s₂.digitsOk n with
  | false =>
    rw [withDigits_error n f s₁ (hd.trans hok), withDigits_error n f s₂ hok]
    exact .error _
  | true =>
    rw [withDigits_ok n f s₁ (hd.trans hok), withDigits_ok n f s₂ hok, h.expDigits_eq]
    exact .success _

theorem execLookup_same : SameOutcome s₁ s₂ (execLookup s₁) (execLookup s₂) := by
  simp only [execLookup, h.chr]
  split
  · exact .success _
  · exact .error _

theorem execValidate_same : SameOutcome s₁ s₂ (execValidate s₁) (execValidate s₂) := by
  simp only [execValidate, h.len, h.chr]
  split
  · exact .success _
  · split
    · exact .success _
    · exact .success _

theorem execGenerate_same : SameOutcome s₁ s₂ (execGenerate s₁) (execGenerate s₂) := by
  simp only [execGenerate, h.prefixError_eq, h.drawState_eq, h.prefixChars_eq]
  split
  · exact .error _
  · split
    · exact .generated _
    · exact .error _
    · exact .request _

/-- A command does the same to two states with the same operands, whatever their other registers hold. -/
theorem exec_same (i : Instr) : SameOutcome s₁ s₂ (exec i s₁) (exec i s₂) := by
  cases i with
  | lookup => exact h.execLookup_same
  | wsum => exact h.withDigits_same 11 sumWord
  | check => exact h.withDigits_same 11 fun w => boolWord (passes w)
  | solve => exact h.withDigits_same 10 fun p => BitVec.ofNat 32 (checkDigit p)
  | validate => exact h.execValidate_same
  | generate => exact h.execGenerate_same

/-- So does the block's turn, if both states are busy and PENDING decodes alike in them. -/
theorem blockTurn_same (hd : decode s₁.pending = decode s₂.pending) (h₁ : s₁.busy = true) (h₂ : s₂.busy = true) :
    SameOutcome s₁ s₂ (blockTurn s₁) (blockTurn s₂) := by
  simp only [blockTurn, h₁, h₂, if_true, perform, hd]
  split
  · exact h.exec_same _
  · exact .error _

end SameOperands

/-- A command that runs with FAULT already 1 does what it does otherwise (10_state.md R25). -/
theorem exec_fault_set {i : Instr} {s t : State} (h : exec i s = .next t) :
    exec i { s with fault := true } = .next { t with fault := true } := by
  have hoperands : SameOperands s { s with fault := true } := ⟨rfl, rfl, rfl, rfl⟩
  have hsame := hoperands.exec_same i
  rw [h] at hsame
  generalize exec i { s with fault := true } = outcome at hsame
  cases hsame with
  | success r => rfl
  | error e => rfl
  | generated o => rfl
  | request r => cases hr : s.request <;> simp [State.requested, hr]

/-! ### The block's turn (20_memory.md R57) -/

theorem performEnabled_busy {s : State} (h : performEnabled s = true) : s.busy = true :=
  ((performEnabled_iff s).1 h).1

/-- An enabled Perform step commits. -/
theorem blockTurn_enabled_idle {s t : State} (hen : performEnabled s = true) (h : blockTurn s = .next t) :
    t.busy = false := by
  rcases blockTurn_next s t h with ⟨hb, -⟩ | ⟨-, ⟨r, -, rfl⟩ | ⟨e, rfl⟩ | ⟨cs, -, -, rfl⟩⟩ | ⟨-, hen', -⟩
  · simp [performEnabled_busy hen] at hb
  · rfl
  · rfl
  · rfl
  · simp [hen] at hen'

theorem blockTurn_proto {s t : State} (h : blockTurn s = .next t) : t.proto = s.proto := by
  rcases blockTurn_next s t h with ⟨-, rfl⟩ | ⟨-, ⟨r, -, rfl⟩ | ⟨e, rfl⟩ | ⟨cs, -, -, rfl⟩⟩ | ⟨-, -, -, -, r, -, rfl⟩ <;>
    simp

/-! ### EXP and STATUS as a read returns them (10_state.md R22, R29) -/

theorem packHi_unpackLo (v : Word) (e : Vector Nibble 11) : packHi (unpackLo v e) = packHi e := rfl

theorem packLo_unpackHi (v : Word) (e : Vector Nibble 11) : packLo (unpackHi v e) = packLo e := rfl

theorem statusWord_bit_reserved (s : State) (i : Nat) (h4 : 4 ≤ i) (h : i < 8 ∨ 12 ≤ i) :
    s.statusWord.getLsbD i = false := by
  rw [statusWord_bit, if_neg (by omega), if_neg (by omega), if_neg (by omega), if_neg (by omega)]
  rcases h with h | h
  · rw [if_pos h]
  · rw [if_neg (by omega), BitVec.getLsbD_of_ge _ _ (by omega)]

theorem statusWord_bit_code (s : State) (i : Nat) : s.statusWord.getLsbD (8 + i) = s.code.getLsbD i := by
  rw [statusWord_bit, if_neg (by omega), if_neg (by omega), if_neg (by omega), if_neg (by omega), if_neg (by omega),
    Nat.add_sub_cancel_left]

/-! ### The command words (30_encoding.md R81; log 12) -/

theorem decode_encode (i : Instr) : decode (encode i) = .ok i := by cases i <;> decide

theorem withFetchWord_encode (s : State) (i : Instr) :
    s.withFetchWord 32 (encode i).toNat = (s.issued (encode i)).withInbox (.blockTurn :: s.inbox) := by
  have hword : BitVec.ofNat 32 ((encode i).toNat % 2 ^ 32) = encode i := by
    rw [Nat.mod_eq_of_lt (encode i).isLt, BitVec.ofNat_toNat, BitVec.setWidth_eq]
  rw [State.withFetchWord, hword, State.primed]

/-! ### A host access, by what it does to the registers (20_memory.md R50 to R55) -/

/-- A host access leaves all but PROTO and the bus's answer alone, or it is an accepted write to an idle block. -/
theorem hostAccess_effect (a : Access) (s : State) :
    (∃ p resp, hostAccess a s = { s with proto := p, response := resp }) ∨
    (∃ r v, s.busy = false ∧ a = .write (Config.base + r.offset) 4 v ∧
      hostAccess a s = (s.writeReg v r).respond (.write false)) := by
  rcases hostAccess_window_cases a s with ⟨-, h⟩ | ⟨off, hoff, haddr⟩
  · exact .inl ⟨s.proto, s.response, h⟩
  · rcases hostAccess_inWindow s a off hoff haddr with
      ⟨-, h⟩ | ⟨-, r, rfl, hsize, ⟨_, _, -, h⟩ | ⟨addr, size, v, rfl, hb, -, h⟩⟩
    · exact .inl ⟨true, _, h⟩
    · exact .inl ⟨s.proto, _, h⟩
    · obtain rfl : addr = Config.base + r.offset := haddr
      obtain rfl : size = 4 := hsize
      exact .inr ⟨r, v, hb, rfl, h⟩

/-- PROTO after an access: it was set, or the access breaks the protocol. -/
theorem hostAccess_proto_iff (a : Access) (s : State) : (hostAccess a s).proto = true ↔
    s.proto = true ∨ ∃ off < 0x80, a.addr = Config.base + off ∧ Breach s a off := by
  rcases hostAccess_window_cases a s with ⟨hout, h⟩ | ⟨off, hoff, haddr⟩
  · rw [h]
    exact ⟨.inl, fun h => h.resolve_right fun ⟨off, hoff, haddr, _⟩ => hout off hoff haddr⟩
  · have same (off' : Nat) (haddr' : a.addr = Config.base + off') : off' = off := by omega
    rcases hostAccess_inWindow s a off hoff haddr with ⟨hbr, h⟩ | ⟨hbr, r, -, -, hok⟩
    · rw [h]
      exact ⟨fun _ => .inr ⟨off, hoff, haddr, hbr⟩, fun _ => rfl⟩
    · have hproto : (hostAccess a s).proto = s.proto := by
        rcases hok with ⟨_, _, -, h⟩ | ⟨_, _, _, -, -, -, h⟩ <;> rw [h] <;> simp
      rw [hproto]
      exact ⟨.inl, fun h => h.resolve_right fun ⟨off', _, haddr', hbr'⟩ => hbr (same off' haddr' ▸ hbr')⟩

/-! ### One step, by what it does to the registers -/

/-- Every register but PROTO, and PENDING, as before. -/
structure SameButProto (s t : State) : Prop where
  busy : t.busy = s.busy
  done : t.done = s.done
  fault : t.fault = s.fault
  code : t.code = s.code
  result : t.result = s.result
  exp : t.exp = s.exp
  len : t.len = s.len
  chr : t.chr = s.chr
  out : t.out = s.out
  pending : t.pending = s.pending

/-- All a step can do to the registers other than PROTO: nothing; a success or an error commit, at the block's turn and
with Perform enabled; an issue; an accepted write of another register; a reset. -/
inductive StepEffect (s : State) : State → Prop
  | quiet {t : State} (same : SameButProto s t) : StepEffect s t
  | success (rest : List Event) (o : Vector Word 10) (r : Word) (hen : performEnabled s = true)
      (hturn : s.inbox = [] ∨ s.inbox = .blockTurn :: rest) :
      StepEffect s (((s.withInbox rest).withOut o).completed r)
  | error (rest : List Event) (e : CmdError) (hen : performEnabled s = true)
      (hturn : s.inbox = [] ∨ s.inbox = .blockTurn :: rest) :
      StepEffect s ((s.withInbox rest).failed e)
  | issue (rest : List Event) (v : Word) (hb : s.busy = false)
      (hi : s.inbox = .access (.write Config.base 4 v) :: rest) :
      StepEffect s (((s.withInbox rest).issued v).respond (.write false))
  | operandWrite (rest : List Event) (r : Reg) (v : Word) (hr : r ≠ .cmd) (hb : s.busy = false)
      (hi : s.inbox = .access (.write (Config.base + r.offset) 4 v) :: rest) :
      StepEffect s (((s.withInbox rest).writeReg v r).respond (.write false))
  | reset (rest : List Event) (hi : s.inbox = .reset :: rest) : StepEffect s (s.withInbox rest).afterRst

theorem blockTurn_effect {s t : State} (rest : List Event) (hturn : s.inbox = [] ∨ s.inbox = .blockTurn :: rest)
    (h : blockTurn (s.withInbox rest) = .next t) : StepEffect s t := by
  rcases blockTurn_next _ t h with
    ⟨-, rfl⟩ | ⟨hen, ⟨r, -, rfl⟩ | ⟨e, rfl⟩ | ⟨cs, -, -, rfl⟩⟩ | ⟨-, -, -, -, r, -, rfl⟩
  · exact .quiet (by constructor <;> rfl)
  · exact .success rest s.out r hen hturn
  · exact .error rest e hen hturn
  · exact .success rest _ 0 hen hturn
  · exact .quiet (by constructor <;> simp)

theorem access_effect {s : State} {a : Access} (rest : List Event) (hi : s.inbox = .access a :: rest) :
    StepEffect s (hostAccess a (s.withInbox rest)) := by
  rcases hostAccess_effect a (s.withInbox rest) with ⟨p, resp, h⟩ | ⟨r, v, hb, rfl, h⟩ <;> rw [h]
  · exact .quiet (by constructor <;> rfl)
  · by_cases hr : r = .cmd
    · subst hr
      exact .issue rest v hb hi
    · exact .operandWrite rest r v hr hb hi

theorem step_effect {s t : State} (h : step s = .next t) : StepEffect s t := by
  rcases step_cases s t h with
    ⟨hi, h⟩ | ⟨rest, hi, h⟩ | ⟨a, rest, hi, rfl⟩ | ⟨n, v, rest, -, rfl⟩ | ⟨rest, hi, rfl⟩
  · exact blockTurn_effect s.inbox (.inl hi) h
  · exact blockTurn_effect rest (.inr hi) h
  · exact access_effect rest hi
  · exact .quiet (by constructor <;> simp)
  · exact .reset rest hi

end Sys2Proof.Machine

/-! Proofs of the statements on the block's state (10_state.md). -/

namespace Sys2Proof.Machine

/-! ### Commands -/

/-- Settles O26: the block's turn does the same to both states, and it is no request, since an enabled turn commits. -/
theorem commandsAreStateless : Obligations.CommandsAreStateless := by
  intro s₁ s₂ t₁ t₂ hd hexp hlen hchr hans hen₁ hen₂ ht₁ ht₂
  have hb₁ := performEnabled_busy hen₁
  have hsame := SameOperands.blockTurn_same ⟨hexp, hlen, hchr, hans⟩ hd hb₁ (performEnabled_busy hen₂)
  have hcommit := blockTurn_enabled_idle hen₁ ht₁
  rw [ht₁, ht₂] at hsame
  cases hsame with
  | success r => exact ⟨rfl, rfl, .inl ⟨rfl, rfl⟩⟩
  | error e => exact ⟨rfl, rfl, .inl ⟨rfl, rfl⟩⟩
  | generated o => exact ⟨rfl, rfl, .inr rfl⟩
  | request r => simp [hb₁] at hcommit

/-- Settles O5: the next event is the block's turn, and PENDING decodes to the command. -/
theorem fetchWordIsPerformedNext : Obligations.FetchWordIsPerformedNext := by
  intro s i
  rw [withFetchWord_encode, step_withInbox_cons]
  change blockTurn (s.issued (encode i)) = exec i (s.issued (encode i))
  rw [blockTurn, if_pos (s.issued_busy _), perform, s.issued_pending, decode_encode]

/-! ### Registers -/

/-- Settles O32: each half of EXP reads back, and a write of one half is no write of the other. -/
theorem expansionReadsBack : Obligations.ExpansionReadsBack := fun s v =>
  ⟨packLo_unpackLo v s.exp, packHi_unpackLo v s.exp, packHi_unpackHi v s.exp, packLo_unpackHi v s.exp⟩

/-- Settles O33: the flags are four bits of `statusWord_bit`, and each field is compared bit by bit. -/
theorem statusFieldsStandAtTheirBits : Obligations.StatusFieldsStandAtTheirBits := by
  intro s
  refine ⟨statusWord_bit s 0, statusWord_bit s 1, statusWord_bit s 2, statusWord_bit s 3,
    BitVec.eq_of_getLsbD_eq fun i hi => ?_, BitVec.eq_of_getLsbD_eq fun i hi => ?_,
    BitVec.eq_of_getLsbD_eq fun i hi => ?_⟩
  · simp [State.readReg, statusWord_bit_reserved s (4 + i) (by omega) (by omega)]
  · simp [State.readReg, statusWord_bit_code, hi]
  · simp [State.readReg, statusWord_bit_reserved s (12 + i) (by omega) (by omega)]

/-- Settles O34. -/
theorem everyMappedOffsetIsOneRegister : Obligations.EveryMappedOffsetIsOneRegister := by
  refine ⟨regAt_offset, fun off haligned => ⟨fun hlt => ?_, ?_⟩, regAt_unmapped⟩
  · obtain ⟨r, -, hr⟩ := regAt_mapped off haligned hlt
    exact ⟨r, hr⟩
  · rintro ⟨r, rfl⟩
    exact offset_lt r

/-! ### STATUS over steps -/

/-- Settles O40, by the effects of a step. -/
theorem busyChangesOnlyAtIssueCommitAndReset : Obligations.BusyChangesOnlyAtIssueCommitAndReset := by
  intro s t h
  cases step_effect h with
  | quiet same => simp +contextual [same.busy]
  | success rest o r hen hturn =>
    exact ⟨by simp, fun _ _ => .inl ⟨hen, rfl, hturn.imp_right fun hi => ⟨rest, hi⟩⟩⟩
  | error rest e hen hturn =>
    exact ⟨by simp, fun _ _ => .inl ⟨hen, rfl, hturn.imp_right fun hi => ⟨rest, hi⟩⟩⟩
  | issue rest v hb hi => exact ⟨fun _ _ => ⟨v, rest, hi, rfl, rfl⟩, fun _ hfall => by simp at hfall⟩
  | operandWrite rest r v hr hb hi =>
    obtain ⟨hbusy, -, -⟩ := State.writeReg_slot (s.withInbox rest) v r hr
    simp [hbusy, hb]
  | reset rest hi => exact ⟨fun _ hrise => (nomatch hrise), fun _ _ => .inr ⟨rest, hi⟩⟩

/-- Settles O41: of a step's effects only the error commit sets FAULT, and only reset clears it. -/
theorem faultIsSetByErrorCommitsOnly : Obligations.FaultIsSetByErrorCommitsOnly := by
  refine ⟨fun s t h => ?_, fun _ _ _ => exec_fault_set⟩
  cases step_effect h with
  | quiet same => simp +contextual [same.fault, same.busy]
  | success rest o r => simp +contextual [okCode]
  | error rest e hen =>
    exact ⟨fun _ _ => ⟨performEnabled_busy hen, rfl, rfl, code_ne_zero e, rfl⟩, fun _ _ _ => rfl,
      fun _ hfall => by simp at hfall⟩
  | issue rest v hb => simp +contextual [hb]
  | operandWrite rest r v hr hb => simp +contextual [hb]
  | reset rest hi =>
    exact ⟨fun _ hrise => (nomatch hrise), fun _ _ hcode => absurd rfl hcode, fun _ _ => ⟨rest, hi⟩⟩

/-- Settles O42: an access sets PROTO exactly at a breach, and no other event but reset writes it. -/
theorem protoIsSetByBadAccessesOnly : Obligations.ProtoIsSetByBadAccessesOnly := by
  intro s t h
  rcases step_cases s t h with
    ⟨hi, h⟩ | ⟨rest, hi, h⟩ | ⟨a, rest, hi, rfl⟩ | ⟨n, v, rest, hi, rfl⟩ | ⟨rest, hi, rfl⟩
  · simp [hi, blockTurn_proto h]
  · simp [hi, blockTurn_proto h]
  · have hiff := hostAccess_proto_iff a (s.withInbox rest)
    refine ⟨fun hp => hiff.trans ⟨?_, ?_⟩, fun hp hfall => ?_⟩
    · rintro (hset | ⟨off, hoff, haddr, hbr⟩)
      · simp [hp] at hset
      · exact ⟨a, off, rest, hi, hoff, haddr, hbr⟩
    · rintro ⟨a', off, rest', hi', hoff, haddr, hbr⟩
      obtain ⟨rfl, rfl⟩ : a = a' ∧ rest = rest' := by simpa [hi] using hi'
      exact .inr ⟨off, hoff, haddr, hbr⟩
    · simp [hiff.2 (.inl hp)] at hfall
  · simp [hi]
  · simp [hi, State.reset]

/-- Settles O44, by the effects of a step. -/
theorem resultsStayUntilTheNextCommit : Obligations.ResultsStayUntilTheNextCommit := by
  intro s t h
  cases step_effect h with
  | quiet same => simp +contextual [same.result, same.code, same.out, same.done]
  | success rest o r hen =>
    have hcommit := performEnabled_busy hen
    simp [hcommit]
  | error rest e hen =>
    have hcommit := performEnabled_busy hen
    simp [hcommit]
  | issue rest v hb hi => simp [hi]
  | operandWrite rest r v hr =>
    obtain ⟨-, hdone, -⟩ := State.writeReg_slot (s.withInbox rest) v r hr
    simp +contextual [hdone]
  | reset rest hi => simp [hi, State.reset]

/-- Settles O45, by the effects of a step. -/
theorem operandsChangeOnlyByIdleWrites : Obligations.OperandsChangeOnlyByIdleWrites := by
  intro s t h hchange
  cases step_effect h with
  | quiet same => simp [same.exp, same.len, same.chr] at hchange
  | success rest o r => simp at hchange
  | error rest e => simp at hchange
  | issue rest v => simp at hchange
  | operandWrite rest r v hr hb hi => exact .inl ⟨hb, _, v, rest, hi⟩
  | reset rest hi => exact .inr ⟨rest, hi⟩

end Sys2Proof.Machine

/-! SUPPORT. The facts that the proofs about the register window share: a decoded block's turn, the frame of a commit, an
access that breaks the protocol, and an accepted write of half of EXP. -/

namespace Sys2Proof.Machine

/-! ### The block's turn (20_memory.md R57) -/

theorem blockTurn_decoded {s : State} {i : Instr} (hb : s.busy = true) (hd : decode s.pending = .ok i) :
    blockTurn s = exec i s := by
  rw [blockTurn, if_pos hb, perform, hd]

/-- Nothing stops the block: each command has a next state (log 7). -/
theorem exec_total (i : Instr) (s : State) : ∃ t, exec i s = .next t := by
  rcases exec_cases i s with ⟨_, -, -, h⟩ | ⟨_, -, h⟩ | ⟨_, -, -, -, h⟩ | ⟨_, -, -, -, h⟩ <;>
    exact ⟨_, h⟩

theorem blockTurn_total (s : State) : ∃ t, blockTurn s = .next t := by
  rcases blockTurn_cases s with ⟨-, h⟩ | ⟨-, _, -, h⟩ | ⟨-, i, -, h⟩
  · exact ⟨_, h⟩
  · exact ⟨_, h⟩
  · rw [h]
    exact exec_total i s

/-- A turn that finds a draw open is GENERATE's next request. -/
theorem blockTurn_waiting {s : State} (hb : s.busy = true) (hen : performEnabled s = false) :
    ∃ r, blockTurn s = .next (s.requested r) := by
  obtain ⟨t, ht⟩ := blockTurn_total s
  rcases blockTurn_next s t ht with ⟨hidle, -⟩ | ⟨hen', -⟩ | ⟨-, -, -, -, r, -, rfl⟩
  · simp [hb] at hidle
  · simp [hen] at hen'
  · exact ⟨r, ht⟩

/-! ### Commits (60_exceptions.md R202, R203) -/

/-- What every commit does, error or success: the command ends and the port closes (log 3); the operands and what other
events write are as before. -/
structure CommitFrame (s t : State) : Prop where
  busy : t.busy = false
  done : t.done = true
  request : t.request = none
  answers : t.answers = []
  proto : t.proto = s.proto
  exp : t.exp = s.exp
  len : t.len = s.len
  chr : t.chr = s.chr
  pending : t.pending = s.pending
  sent : t.sent = s.sent
  drawn : t.drawn = s.drawn
  response : t.response = s.response
  inbox : t.inbox = s.inbox

theorem State.completed_frame (s : State) (r : Word) : CommitFrame s (s.completed r) := by constructor <;> rfl

theorem State.failed_frame (s : State) (e : CmdError) : CommitFrame s (s.failed e) := by constructor <;> rfl

theorem State.withOut_completed_frame (s : State) (o : Vector Word 10) (r : Word) :
    CommitFrame s ((s.withOut o).completed r) := by constructor <;> rfl

/-- A command of a busy block that leaves it idle has committed. -/
theorem exec_commit {i : Instr} {s t : State} (hb : s.busy = true) (h : exec i s = .next t) (hidle : t.busy = false) :
    CommitFrame s t := by
  rcases exec_cases i s with ⟨r, -, -, he⟩ | ⟨e, -, he⟩ | ⟨cs, -, -, -, he⟩ | ⟨r, -, -, -, he⟩ <;>
    obtain rfl := Host.Outcome.next.inj (he.symm.trans h)
  · exact s.completed_frame r
  · exact s.failed_frame e
  · exact s.withOut_completed_frame _ 0
  · simp [hb] at hidle

/-- An enabled turn commits. -/
theorem blockTurn_commits {s : State} (hen : performEnabled s = true) :
    ∃ t, blockTurn s = .next t ∧ CommitFrame s t := by
  obtain ⟨t, h⟩ := blockTurn_total s
  refine ⟨t, h, ?_⟩
  rcases blockTurn_next s t h with ⟨hidle, -⟩ | ⟨-, ⟨r, -, rfl⟩ | ⟨e, rfl⟩ | ⟨cs, -, -, rfl⟩⟩ | ⟨-, hen', -⟩
  · simp [performEnabled_busy hen] at hidle
  · exact s.completed_frame r
  · exact s.failed_frame e
  · exact s.withOut_completed_frame _ 0
  · simp [hen] at hen'

/-- Two commits with the same outcome write the same RESULT and CODE, and FAULT and OUT alike from alike. -/
theorem SameOutcome.commit {s₁ s₂ t₁ t₂ : State} (h : SameOutcome s₁ s₂ (.next t₁) (.next t₂))
    (hb : s₁.busy = true) (hidle : t₁.busy = false) (hfault : s₁.fault = s₂.fault) (hout : s₁.out = s₂.out) :
    t₁.result = t₂.result ∧ t₁.code = t₂.code ∧ t₁.fault = t₂.fault ∧ t₁.out = t₂.out := by
  cases h with
  | success r => exact ⟨rfl, rfl, hfault, hout⟩
  | error e => exact ⟨rfl, rfl, rfl, hout⟩
  | generated o => exact ⟨rfl, rfl, hfault, rfl⟩
  | request r => simp [hb] at hidle

/-! ### Host accesses (20_memory.md R51 to R55) -/

theorem hostAccess_breach {s : State} {a : Access} {off : Nat} (ho : off < 0x80) (ha : a.addr = Config.base + off)
    (hbr : Breach s a off) : hostAccess a s = s.protocolError a := by
  rcases hostAccess_inWindow s a off ho ha with ⟨-, h⟩ | ⟨hok, -⟩
  · exact h
  · exact absurd hbr hok

theorem hostAccess_write_busy (r : Reg) (v : Word) {s : State} (hb : s.busy = true) :
    hostAccess (.write (Config.base + r.offset) 4 v) s = s.protocolError (.write (Config.base + r.offset) 4 v) :=
  hostAccess_breach (off := r.offset) (Nat.lt_trans (offset_lt r) (by decide)) rfl
    (.inr (.inr (.inr ⟨_, _, _, rfl, .inl hb⟩)))

theorem unpackLo_getElem (v : Word) (e : Vector Nibble 11) (i : Fin 11) :
    (unpackLo v e)[i] = if i.val < 8 then fieldOf v i.val else e[i] := by
  fin_cases i <;> rfl

theorem unpackHi_getElem (v : Word) (e : Vector Nibble 11) (i : Fin 11) :
    (unpackHi v e)[i] = if i.val < 8 then e[i] else fieldOf v (i.val - 8) := by
  fin_cases i <;> rfl

/-! ### A write that races the block's turn (20_memory.md R58, 95_test_vectors.md P4) -/

theorem core_run_two {s u t : State} (h₁ : step s = .next u) (h₂ : step u = .next t) : core.run 2 s = .next t :=
  (core_run_succ 1 s u h₁).trans (core_run_succ 0 u t h₂)

/-- An enabled turn commits with the same outcome before an access to come and after that access was dropped. -/
theorem racing_commits {s : State} (a : Access) (hen : performEnabled s = true) :
    ∃ t u, blockTurn (s.withInbox [.access a]) = .next t ∧ CommitFrame (s.withInbox [.access a]) t ∧
      blockTurn ((s.withInbox []).protocolError a) = .next u ∧ CommitFrame ((s.withInbox []).protocolError a) u ∧
      t.result = u.result ∧ t.code = u.code ∧ t.fault = u.fault ∧ t.out = u.out := by
  have hb := performEnabled_busy hen
  have hoperands : SameOperands (s.withInbox [.access a]) ((s.withInbox []).protocolError a) := ⟨rfl, rfl, rfl, rfl⟩
  have hsame := hoperands.blockTurn_same rfl hb hb
  obtain ⟨t, ht, htc⟩ := blockTurn_commits (s := s.withInbox [.access a]) hen
  obtain ⟨u, hu, huc⟩ := blockTurn_commits (s := (s.withInbox []).protocolError a) hen
  rw [ht, hu] at hsame
  exact ⟨t, u, ht, htc, hu, huc, hsame.commit hb htc.busy rfl rfl⟩

/-- The turn first: it commits, and the write finds the block idle. -/
theorem run_turn_write {s t : State} (r : Reg) (v : Word) (hr : r.readOnly = false)
    (h : blockTurn (s.withInbox [.access (.write (Config.base + r.offset) 4 v)]) = .next t)
    (hcommit : CommitFrame (s.withInbox [.access (.write (Config.base + r.offset) 4 v)]) t) :
    core.run 2 (s.withInbox [.blockTurn, .access (.write (Config.base + r.offset) 4 v)]) =
      .next (((t.withInbox []).writeReg v r).respond (.write false)) := by
  refine core_run_two h ?_
  rw [step_cons t _ [] hcommit.inbox, deliver, hostAccess_write r v (t.withInbox []) hcommit.busy hr]

/-- The write first: it is dropped, and the turn finds the block as it was but for PROTO and the bus's answer. -/
theorem run_write_turn {s t : State} (r : Reg) (v : Word) (hb : s.busy = true)
    (h : blockTurn ((s.withInbox []).protocolError (.write (Config.base + r.offset) 4 v)) = .next t) :
    core.run 2 (s.withInbox [.access (.write (Config.base + r.offset) 4 v), .blockTurn]) = .next t := by
  have hdrop := hostAccess_write_busy r v (s := s.withInbox [.blockTurn]) hb
  refine core_run_two (congrArg Host.Outcome.next hdrop) ?_
  rw [step_cons _ .blockTurn [] rfl]
  exact h

end Sys2Proof.Machine

/-! Proofs of the statements on the register window and on one command in flight (20_memory.md). -/

namespace Sys2Proof.Machine

/-! ### The block's turn -/

/-- Settles O7: an enabled turn is a commit, and any other turn of a busy block is a request, which changes nothing where
one is in flight. -/
theorem turnCommitsExactlyWhenEnabled : Obligations.TurnCommitsExactlyWhenEnabled := by
  intro s hb
  refine ⟨fun hen => ?_, fun hen hnone => ?_, fun hen r' hsome => ?_⟩
  · obtain ⟨t, ht, hcommit⟩ := blockTurn_commits hen
    exact ⟨t, ht, hcommit.busy, hcommit.done⟩
  · obtain ⟨r, hr⟩ := blockTurn_waiting hb hen
    exact ⟨r, by rw [hr, s.requested_first r hnone]⟩
  · obtain ⟨r, hr⟩ := blockTurn_waiting hb hen
    rw [hr, s.requested_again r r' hsome]

/-- Settles O4. -/
theorem blockTurnRunsTheDecodedCommand : Obligations.BlockTurnRunsTheDecodedCommand := by
  intro s i rest hb hd
  refine ⟨fun hi => ?_, fun hi => ?_⟩
  · rw [step_cons s _ rest hi, deliver]
    exact blockTurn_decoded hb hd
  · rw [step_nil s hi, blockTurn_decoded hb hd]

/-- Settles O28. -/
theorem commitsCloseTheEntropyPort : Obligations.CommitsCloseTheEntropyPort := by
  intro i s t hb h hidle
  have hcommit := exec_commit hb h hidle
  exact ⟨hcommit.request, hcommit.answers⟩

/-- Settles O36: of a step's effects only one that leaves the registers alone finds the block busy and leaves it busy. -/
theorem inFlightCommandCannotBeChanged : Obligations.InFlightCommandCannotBeChanged := by
  intro s t hb h hstill
  cases step_effect h with
  | quiet same => exact ⟨same.pending, same.exp, same.len, same.chr, same.out, same.result, same.code⟩
  | success rest o r => simp at hstill
  | error rest e => simp at hstill
  | issue rest v hidle => simp [hb] at hidle
  | operandWrite rest r v hr hidle => simp [hb] at hidle
  | reset rest hi => simp [State.reset] at hstill

/-! ### Host accesses -/

/-- Settles O29: a breach is a protocol error, which is the stated state for a read and for a write. -/
theorem badAccessIsRecordedAndDropped : Obligations.BadAccessIsRecordedAndDropped := by
  intro s a off ho ha hbr
  rw [hostAccess_breach ho ha hbr]
  cases a with
  | read addr size => rfl
  | write addr size v => rfl

/-- Settles O30: the eight offsets are the offsets of the eight kinds of register. -/
theorem readsReturnTheRegisters : Obligations.ReadsReturnTheRegisters := fun s k =>
  ⟨hostAccess_read .cmd s, hostAccess_read .status s, hostAccess_read .result s, hostAccess_read .expLo s,
    hostAccess_read .expHi s, hostAccess_read .len s, hostAccess_read (.chr k) s, hostAccess_read (.out k) s⟩

/-- Settles O31: each writable offset is its register's, and a write of one half of EXP or of one CHR is compared element
by element. -/
theorem idleWritesReachTheirRegister : Obligations.IdleWritesReachTheirRegister := by
  intro s v k hb
  have accepted (r : Reg) (hr : r.readOnly = false) := hostAccess_write r v s hb hr
  refine ⟨accepted .cmd rfl, ⟨unpackLo v s.exp, accepted .expLo rfl, unpackLo_getElem v s.exp⟩,
    ⟨unpackHi v s.exp, accepted .expHi rfl, unpackHi_getElem v s.exp⟩, accepted .len rfl,
    ⟨s.chr.set k v, accepted (.chr k) rfl, fun j => ?_⟩⟩
  simp [Vector.getElem_set, Fin.ext_iff, eq_comm]

/-- Settles O35. -/
theorem accessOutsideTheWindowIsNotOurs : Obligations.AccessOutsideTheWindowIsNotOurs :=
  fun s a hout => hostAccess_outside a s hout

/-- Settles O38: both runs take the block's turn on the same operands, so with the same outcome; only the first write finds
the block idle. -/
theorem racingWriteAdmitsBothOrders : Obligations.RacingWriteAdmitsBothOrders := by
  intro s v hen
  obtain ⟨t, u, ht, htc, hu, huc, houtcome⟩ := racing_commits (.write (Config.base + Reg.len.offset) 4 v) hen
  have hfirst := run_turn_write .len v rfl ht htc
  have hsecond := run_write_turn .len v (performEnabled_busy hen) hu
  exact ⟨_, u, hfirst, hsecond, htc.busy, huc.busy, rfl, huc.len, htc.proto, huc.proto, rfl, huc.response, houtcome⟩

end Sys2Proof.Machine

/-! SUPPORT. The facts that the proofs about command words and host programs share: a word and its fields, the lines of a
host program on an idle block, and a run cut in two. -/

namespace Sys2Proof.Machine

/-! ### Command words (30_encoding.md R80 to R82) -/

theorem word_fieldsOf (w : Word) : (fieldsOf w).word = w := by
  apply BitVec.eq_of_getLsbD_eq
  intro i hi
  simp only [CommandWord.word, fieldsOf, BitVec.getLsbD_append, BitVec.getLsbD_extractLsb']
  by_cases h4 : i < 4
  · simp [h4]
  · simp [h4, show i - 4 < 28 by omega, show 4 + (i - 4) = i by omega]

/-- The decoder takes no word but one with a zero MBZ and the command's OPC. -/
theorem fieldsOf_of_decode {w : Word} {i : Instr} (h : decode w = .ok i) : fieldsOf w = { opc := i.opcode, mbz := 0 } := by
  unfold decode at h
  split at h
  case isFalse => cases h
  case isTrue hmbz =>
    have hfields {c : Nibble} (hopc : (fieldsOf w).opc.toNat = c.toNat) : fieldsOf w = { opc := c, mbz := 0 } := by
      rw [← hmbz, ← BitVec.eq_of_toNat_eq hopc]
    split at h <;> cases h <;> exact hfields ‹_›

theorem encode_fields_in_range (i : Instr) : ((encode i).extractLsb' 4 28).toNat = 0 ∧
    1 ≤ ((encode i).extractLsb' 0 4).toNat ∧ ((encode i).extractLsb' 0 4).toNat ≤ 6 := by
  cases i <;> decide

/-! ### The block's turn (20_memory.md R57) -/

theorem blockTurn_idle {s : State} (hb : s.busy = false) : blockTurn s = .next s :=
  if_neg (by simp [hb])

theorem blockTurn_undecoded {s : State} {e : DecodeError} (hb : s.busy = true) (hd : decode s.pending = .error e) :
    blockTurn s = .next (s.failed .opc) := by
  rw [blockTurn, if_pos hb, perform, hd, raiseError]

theorem blockTurn_issued (s : State) (i : Instr) : blockTurn (s.issued (encode i)) = exec i (s.issued (encode i)) :=
  blockTurn_decoded (s := s.issued (encode i)) rfl (decode_encode i)

theorem State.failed_commitsError (s : State) (e : CmdError) : CommitsError s (s.failed e) e.code := by
  constructor <;> rfl

/-! ### Writes of operand registers, one after another (20_memory.md R53, 30_encoding.md R86) -/

/-- Accepted writes, in order. -/
def State.writeRegs (s : State) (l : List (Reg × Word)) : State := l.foldl (fun t p => t.writeReg p.2 p.1) s

/-- The host lines of these writes. -/
def writeLines (l : List (Reg × Word)) : List HostOp := l.map (fun p => .wr p.1 p.2)

/-- A register a host may write that is not CMD. -/
def Reg.isOperand (r : Reg) : Prop := r.readOnly = false ∧ r ≠ .cmd

theorem writeLines_append (l l' : List (Reg × Word)) : writeLines (l ++ l') = writeLines l ++ writeLines l' :=
  List.map_append

theorem State.writeRegs_cons (s : State) (p : Reg × Word) (l : List (Reg × Word)) :
    s.writeRegs (p :: l) = (s.writeReg p.2 p.1).writeRegs l := rfl

theorem State.writeRegs_append (s : State) (l l' : List (Reg × Word)) :
    s.writeRegs (l ++ l') = (s.writeRegs l).writeRegs l' :=
  List.foldl_append

theorem State.respond_writeReg (s : State) (b : BusResponse) (v : Word) (r : Reg) :
    (s.respond b).writeReg v r = (s.writeReg v r).respond b := by
  cases r <;> rfl

theorem State.respond_writeRegs (s : State) (b : BusResponse) (l : List (Reg × Word)) :
    (s.respond b).writeRegs l = (s.writeRegs l).respond b := by
  induction l generalizing s with
  | nil => rfl
  | cons p l ih =>
    rw [State.writeRegs_cons, State.writeRegs_cons, State.respond_writeReg, ih]

theorem State.writeReg_operand_busy (s : State) (v : Word) {r : Reg} (hr : r.isOperand) : (s.writeReg v r).busy = s.busy :=
  (s.writeReg_slot v r hr.2).1

theorem hostAccesses_append (ops ops' : List HostOp) (s : State) : hostAccesses ((ops ++ ops').map HostOp.access) s =
    hostAccesses (ops'.map HostOp.access) (hostAccesses (ops.map HostOp.access) s) := by
  simp [hostAccesses]

/-- Operand writes to an idle block are all accepted, and the bus's answer is the last one's. -/
theorem hostAccesses_writeLines (s : State) (l : List (Reg × Word)) (hb : s.busy = false) (hne : l ≠ [])
    (hl : ∀ p ∈ l, p.1.isOperand) :
    hostAccesses ((writeLines l).map HostOp.access) s = (s.writeRegs l).respond (.write false) := by
  induction l generalizing s with
  | nil => exact absurd rfl hne
  | cons p l ih =>
    obtain ⟨r, v⟩ := p
    obtain ⟨hr, hl⟩ := List.forall_mem_cons.1 hl
    change hostAccesses ((writeLines l).map HostOp.access) (hostAccess (.write (Config.base + r.offset) 4 v) s) =
      ((s.writeReg v r).writeRegs l).respond (.write false)
    rw [hostAccess_write r v s hb hr.1]
    by_cases hnil : l = []
    · subst hnil
      rfl
    · rw [ih ((s.writeReg v r).respond (.write false)) ((s.writeReg_operand_busy v hr).trans hb) hnil hl,
        State.respond_writeRegs]
      rfl

/-! ### Writes of CHR -/

/-- The writes that give each CHR[k], `k` in `ks`, the value `f` has for it, if any. -/
def chrWrites (f : Fin 10 → Option Word) (ks : List (Fin 10)) : List (Reg × Word) :=
  ks.filterMap (fun k => (f k).map (fun c => (.chr k, c)))

/-- CHR after `chrWrites`. -/
def chrLoaded (f : Fin 10 → Option Word) (ks : List (Fin 10)) (chr : Vector Word 10) : Vector Word 10 :=
  Vector.ofFn (fun j => if j ∈ ks then (f j).getD chr[j] else chr[j])

theorem len_isOperand : Reg.len.isOperand := ⟨rfl, nofun⟩

theorem chrWrites_isOperand (f : Fin 10 → Option Word) (ks : List (Fin 10)) : ∀ p ∈ chrWrites f ks, p.1.isOperand := by
  intro p hp
  simp only [chrWrites, List.mem_filterMap, Option.map_eq_some_iff] at hp
  obtain ⟨k, -, c, -, rfl⟩ := hp
  exact ⟨rfl, nofun⟩

/-- One CHR loaded before the others. -/
theorem chrLoaded_cons (f : Fin 10 → Option Word) (k : Fin 10) (ks : List (Fin 10)) (chr : Vector Word 10) :
    chrLoaded f (k :: ks) chr = chrLoaded f ks (chr.set k ((f k).getD chr[k])) := by
  ext1 j hj
  by_cases hk : k.val = j
  · subst hk
    cases hf : f k <;> simp [chrLoaded, hf]
  · simp [chrLoaded, hk, Fin.ext_iff, Ne.symm hk]

theorem State.writeRegs_chrWrites (s : State) (f : Fin 10 → Option Word) (ks : List (Fin 10)) :
    s.writeRegs (chrWrites f ks) = { s with chr := chrLoaded f ks s.chr } := by
  induction ks generalizing s with
  | nil => simp [chrWrites, State.writeRegs, chrLoaded]
  | cons k ks ih =>
    rw [chrLoaded_cons]
    cases hf : f k with
    | none =>
      have hskip : chrWrites f (k :: ks) = chrWrites f ks := by simp [chrWrites, hf]
      simp [hskip, ih]
    | some c =>
      have hfirst : chrWrites f (k :: ks) = (.chr k, c) :: chrWrites f ks := by simp [chrWrites, hf]
      rw [hfirst]
      exact ih _

theorem chrLoaded_all (f : Fin 10 → Option Word) (chr : Vector Word 10) (j : Fin 10) :
    (chrLoaded f (List.finRange 10) chr)[j] = (f j).getD chr[j] := by
  simp [chrLoaded]

theorem chrLoaded_some (v chr : Vector Word 10) : chrLoaded (fun k => some v[k]) (List.finRange 10) chr = v := by
  ext1 j hj
  exact chrLoaded_all _ _ ⟨j, hj⟩

/-! ### The pseudo-instructions as writes (30_encoding.md R87) -/

theorem ldstr_eq_writeLines (cs : List Word) : ldstr cs =
    writeLines ((.len, BitVec.ofNat 32 cs.length) :: chrWrites (fun k => cs[k.val]?) (List.finRange 10)) := by
  simp [ldstr, writeLines, chrWrites, List.map_filterMap, Function.comp_def]

/-- A read before an accepted write leaves no trace. -/
theorem hostAccess_write_after_read (s : State) {r : Reg} (r' : Reg) (v : Word) (hb : s.busy = false)
    (hr : r.readOnly = false) :
    hostAccess (HostOp.wr r v).access (hostAccess (HostOp.rd r').access s) = hostAccess (HostOp.wr r v).access s := by
  simp only [HostOp.access, hostAccess_read]
  rw [hostAccess_write r v (s.respond _) hb hr, hostAccess_write r v s hb hr, State.respond_writeReg]
  rfl

/-- The reads of `COPYOUT` leave no trace, each before its write. -/
theorem hostAccesses_copies (s : State) (v : Vector Word 10) (ks : List (Fin 10)) (hb : s.busy = false) :
    hostAccesses ((ks.flatMap (fun k => [.rd (.out k), .wr (.chr k) v[k]])).map HostOp.access) s =
      hostAccesses ((writeLines (chrWrites (fun k => some v[k]) ks)).map HostOp.access) s := by
  induction ks generalizing s with
  | nil => rfl
  | cons k ks ih =>
    change hostAccesses _ (hostAccess (HostOp.wr (.chr k) v[k]).access (hostAccess (HostOp.rd (.out k)).access s)) =
      hostAccesses _ (hostAccess (HostOp.wr (.chr k) v[k]).access s)
    rw [hostAccess_write_after_read s (.out k) v[k] hb rfl]
    refine ih _ ?_
    rw [HostOp.access, hostAccess_write (.chr k) v[k] s hb rfl]
    exact hb

theorem hostAccesses_copyout_eq_writeLines (s : State) (v : Vector Word 10) (hb : s.busy = false) :
    hostAccesses ((copyout v).map HostOp.access) s = hostAccesses
      ((writeLines (chrWrites (fun k => some v[k]) (List.finRange 10) ++ [(.len, 10)])).map HostOp.access) s := by
  rw [copyout, hostAccesses_append, hostAccesses_copies s v _ hb, writeLines_append, hostAccesses_append]
  rfl

theorem unpackHi_unpackLo_pack (e e' : Vector Nibble 11) : unpackHi (packHi e) (unpackLo (packLo e) e') = e := by
  ext1 i hi
  have hfield := unpackHi_getElem (packHi e) (unpackLo (packLo e) e') ⟨i, hi⟩
  have hlow := unpackLo_getElem (packLo e) e' ⟨i, hi⟩
  by_cases h8 : i < 8
  · exact (hfield.trans (if_pos h8)).trans ((hlow.trans (if_pos h8)).trans (fieldOf_packLo e ⟨i, h8⟩))
  · have hhigh := fieldOf_packHi e ⟨i - 8, by omega⟩
    simp only [show 8 + (i - 8) = i by omega] at hhigh
    exact (hfield.trans (if_neg h8)).trans hhigh

theorem hostAccesses_ldstr (s : State) (cs : List Word) (hb : s.busy = false) :
    hostAccesses ((ldstr cs).map HostOp.access) s =
      { s with len := BitVec.ofNat 32 cs.length, chr := chrLoaded (fun k => cs[k.val]?) (List.finRange 10) s.chr,
               response := some (.write false) } := by
  rw [ldstr_eq_writeLines, hostAccesses_writeLines s _ hb (List.cons_ne_nil _ _), State.writeRegs_cons,
    State.writeRegs_chrWrites]
  · rfl
  · exact List.forall_mem_cons.2 ⟨len_isOperand, chrWrites_isOperand _ _⟩

theorem hostAccesses_ldexp (s : State) (e : Vector Nibble 11) (hb : s.busy = false) :
    hostAccesses ((ldexp e).map HostOp.access) s = { s with exp := e, response := some (.write false) } := by
  have hlines : ldexp e = writeLines [(.expLo, packLo e), (.expHi, packHi e)] := rfl
  have hwrites : s.writeRegs [(.expLo, packLo e), (.expHi, packHi e)] = { s with exp := e } := by
    conv_rhs => rw [← unpackHi_unpackLo_pack e s.exp]
    rfl
  rw [hlines, hostAccesses_writeLines s _ hb (List.cons_ne_nil _ _), hwrites]
  · rfl
  · simp [Reg.isOperand, Reg.readOnly]

theorem hostAccesses_copyout (s : State) (v : Vector Word 10) (hb : s.busy = false) :
    hostAccesses ((copyout v).map HostOp.access) s =
      { s with chr := v, len := 10, response := some (.write false) } := by
  rw [hostAccesses_copyout_eq_writeLines s v hb, hostAccesses_writeLines s _ hb (by simp), State.writeRegs_append,
    State.writeRegs_chrWrites, chrLoaded_some]
  · rfl
  · exact List.forall_mem_append.2 ⟨chrWrites_isOperand _ _, List.forall_mem_singleton.2 len_isOperand⟩

theorem hostAccesses_gen (s : State) (hb : s.busy = false) :
    hostAccesses (gen.map HostOp.access) s =
      { s with len := 0, pending := 6, busy := true, done := false, response := some (.write false) } := by
  change hostAccess (.write (Config.base + Reg.cmd.offset) 4 (encode .generate))
    (hostAccess (.write (Config.base + Reg.len.offset) 4 0) s) = _
  rw [hostAccess_write .len 0 s hb rfl,
    hostAccess_write .cmd (encode .generate) ((s.writeReg 0 .len).respond (.write false)) hb rfl]
  rfl

/-! ### Runs (20_memory.md R58, R59) -/

/-- A run that gives a next state after `k + 1` steps gives one after the first. -/
theorem core_run_succ_next {k : Nat} {s u : State} (h : core.run (k + 1) s = .next u) :
    ∃ t, step s = .next t ∧ core.run k t = .next u := by
  cases hs : step s with
  | next t => exact ⟨t, rfl, (core_run_succ k s t hs).symm.trans h⟩
  | fault r => exact nomatch r
  | refused r =>
    have hstep : core.step s = .refused r := hs
    simp [Host.Core.run, hstep] at h

/-- A run cut in two. -/
theorem core_run_add {k : Nat} {s u : State} (m : Nat) (h : core.run k s = .next u) :
    core.run (k + m) s = core.run m u := by
  induction k generalizing s with
  | zero =>
    obtain rfl : s = u := Host.Outcome.next.inj h
    rw [Nat.zero_add]
  | succ k ih =>
    obtain ⟨t, hs, ht⟩ := core_run_succ_next h
    rw [Nat.add_right_comm, core_run_succ (k + m) s t hs, ih ht]

/-- The next `n` events are reads of STATUS. -/
def statusReads (n : Nat) : List Event := List.replicate n (.access (.read (Config.base + Reg.status.offset) 4))

theorem step_statusRead {s : State} {rest : List Event} (hi : s.inbox = statusReads 1 ++ rest) :
    step s = .next ((s.withInbox rest).respond (.read false s.statusWord)) := by
  rw [step_cons s _ rest hi, deliver, hostAccess_read]
  rfl

/-- Reads of STATUS with no other event between them all return the same. -/
theorem core_run_statusReads {n : Nat} {s : State} {rest : List Event} (hi : s.inbox = statusReads (n + 1) ++ rest) :
    core.run (n + 1) s = .next ((s.withInbox rest).respond (.read false s.statusWord)) := by
  induction n generalizing s with
  | zero => exact core_run_succ 0 s _ (step_statusRead hi)
  | succ n ih =>
    have hfirst : step s = .next ((s.withInbox (statusReads (n + 1) ++ rest)).respond (.read false s.statusWord)) :=
      step_statusRead hi
    rw [core_run_succ (n + 1) s _ hfirst, ih rfl]
    rfl

/-- However many they are, they leave all but the bus's answer as it was. -/
theorem core_run_statusReads_frame {n : Nat} {s : State} {rest : List Event} (hi : s.inbox = statusReads n ++ rest) :
    ∃ b, core.run n s = .next { s with inbox := rest, response := b } := by
  cases n with
  | zero =>
    obtain rfl : s.inbox = rest := hi
    exact ⟨s.response, rfl⟩
  | succ n => exact ⟨_, core_run_statusReads hi⟩

theorem pollEnds_statusWord (s : State) : pollEnds s.statusWord = !s.busy := by
  rw [pollEnds, statusWord_bit, if_pos rfl]

theorem step_issue {s : State} {v : Word} {rest : List Event} (hb : s.busy = false)
    (hi : s.inbox = .access (.write (Config.base + Reg.cmd.offset) 4 v) :: rest) :
    step s = .next (((s.issued v).withInbox rest).respond (.write false)) := by
  rw [step_cons s _ rest hi, deliver, hostAccess_write .cmd v (s.withInbox rest) hb rfl]
  rfl

/-- An enabled turn gives the same results whatever stands in the inbox and on the bus. -/
theorem enabled_turn_results {s : State} (l : List Event) (b : Option BusResponse) (hen : performEnabled s = true) :
    ∃ t u, step { s with inbox := .blockTurn :: l, response := b } = .next t ∧
      CommitFrame { s with inbox := l, response := b } t ∧
      blockTurn s = .next u ∧ t.result = u.result ∧ t.code = u.code ∧ t.out = u.out := by
  have hb := performEnabled_busy hen
  have hoperands : SameOperands { s with inbox := l, response := b } s := ⟨rfl, rfl, rfl, rfl⟩
  have hsame := hoperands.blockTurn_same rfl hb hb
  obtain ⟨t, ht, hcommit⟩ := blockTurn_commits (s := { s with inbox := l, response := b }) hen
  obtain ⟨u, hu, -⟩ := blockTurn_commits hen
  rw [ht, hu] at hsame
  obtain ⟨hresult, hcode, -, hout⟩ := hsame.commit hb hcommit.busy rfl rfl
  exact ⟨t, u, ht, hcommit, hu, hresult, hcode, hout⟩

/-- The events of `CALL` with the block's turn before its last read. -/
theorem call_events (i : Instr) (again : Nat) :
    (hostEvents (call i again)).take (again + 1) ++ .blockTurn :: (hostEvents (call i again)).drop (again + 1) =
      .access (.write (Config.base + Reg.cmd.offset) 4 (encode i)) ::
        (statusReads again ++ .blockTurn :: statusReads 1) := by
  simp [hostEvents, call, poll, statusReads, HostOp.access]

end Sys2Proof.Machine

/-! Proofs of the statements on the command words and the host's pseudo-instructions (30_encoding.md). -/

namespace Sys2Proof.Machine

/-! ### Command words -/

/-- Settles O2: a decoded word has the fields of the command's word, and a word is put together from its fields. -/
theorem decodeAndEncodeAgree : Obligations.DecodeAndEncodeAgree := by
  intro w i
  constructor
  · intro h
    rw [← word_fieldsOf w, fieldsOf_of_decode h, encode]
  · rintro rfl
    exact decode_encode i

/-- Settles O1. -/
theorem commandWordsDecodeToTheirCommands : Obligations.CommandWordsDecodeToTheirCommands :=
  ⟨decode_encode .lookup, decode_encode .wsum, decode_encode .check, decode_encode .solve, decode_encode .validate,
    decode_encode .generate⟩

/-! ### The block's turn -/

/-- Settles O3: a word that decodes is a command's word, whose fields are in range, so a word with fields out of range does
not decode. -/
theorem performRunsTheCommandOrErrOpc : Obligations.PerformRunsTheCommandOrErrOpc := by
  intro s hb
  refine ⟨fun i hi => blockTurn_decoded hb ((decodeAndEncodeAgree _ _).2 hi), fun hbad => ?_⟩
  cases hd : decode s.pending with
  | ok i =>
    rw [(decodeAndEncodeAgree _ _).1 hd] at hbad
    exact absurd (encode_fields_in_range i) hbad
  | error e => exact ⟨_, blockTurn_undecoded hb hd, s.failed_commitsError .opc, rfl⟩

/-- Settles O6. -/
theorem idleBlockWaits : Obligations.IdleBlockWaits := by
  intro s rest hb
  refine ⟨fun hi => ?_, fun hi => ?_⟩
  · rw [step_nil s hi, blockTurn_idle hb]
  · rw [step_cons s _ rest hi, deliver]
    exact blockTurn_idle hb

/-- Settles O25: a command commits or asks for a draw, and only GENERATE asks. -/
theorem commandsKeepOperandsProtoAndBus : Obligations.CommandsKeepOperandsProtoAndBus := by
  intro i s t h
  rcases exec_cases i s with ⟨r, -, -, he⟩ | ⟨e, -, he⟩ | ⟨cs, -, -, -, he⟩ | ⟨r, hgen, -, -, he⟩ <;>
    obtain rfl := Host.Outcome.next.inj (he.symm.trans h)
  · simp
  · simp
  · simp
  · simp [hgen]

/-! ### Host programs -/

/-- Settles O37: each is a list of operand writes, but for the reads of COPYOUT and the issue of GEN. -/
theorem pseudoInstructionsLoadTheOperands : Obligations.PseudoInstructionsLoadTheOperands := by
  intro s cs e v hb
  refine ⟨⟨_, hostAccesses_ldstr s cs hb, fun k => ?_⟩, hostAccesses_ldexp s e hb, hostAccesses_copyout s v hb,
    hostAccesses_gen s hb⟩
  rw [chrLoaded_all, List.getD_eq_getElem?_getD]

/-- Settles O39: the issue, then the reads that leave the block as it was, then the turn, which does what it would have done
right after the issue, then the read of the idle block. -/
theorem callPollsUntilTheCommit : Obligations.CallPollsUntilTheCommit := by
  intro s i again hb hen hinbox
  rw [call_events] at hinbox
  have hissue := step_issue hb hinbox
  refine ⟨fun k hk hkagain => ?_, ?_⟩
  · obtain ⟨n, rfl⟩ : ∃ n, k = n + 1 := ⟨k - 1, by omega⟩
    have hsplit : statusReads again = statusReads (n + 1) ++ statusReads (again - (n + 1)) := by
      rw [statusReads, statusReads, statusReads, List.replicate_append_replicate, Nat.add_sub_cancel' hkagain]
    rw [hsplit, List.append_assoc] at hissue
    have hreads := core_run_statusReads (n := n) (rest := statusReads (again - (n + 1)) ++ .blockTurn :: statusReads 1)
      (s := ((s.issued (encode i)).withInbox _).respond (.write false)) rfl
    exact ⟨_, _, (core_run_succ (n + 1) s _ hissue).trans hreads, rfl, pollEnds_statusWord _⟩
  · obtain ⟨b, hreads⟩ := core_run_statusReads_frame (n := again) (rest := .blockTurn :: statusReads 1)
      (s := ((s.issued (encode i)).withInbox _).respond (.write false)) rfl
    obtain ⟨t, u, hturn, hcommit, hu, hresult, hcode, hout⟩ := enabled_turn_results (statusReads 1) b hen
    have hlast : step t = .next ((t.withInbox []).respond (.read false t.statusWord)) := step_statusRead hcommit.inbox
    have hrun : core.run (again + 3) s = .next ((t.withInbox []).respond (.read false t.statusWord)) :=
      calc core.run (again + 3) s
        _ = core.run (again + 2) _ := core_run_succ (again + 2) s _ hissue
        _ = core.run 2 _ := core_run_add 2 hreads
        _ = _ := core_run_two hturn hlast
    have hexec : exec i (s.issued (encode i)) = .next u := (blockTurn_issued s i).symm.trans hu
    refine ⟨_, t.statusWord, u, hrun, rfl, ?_, ?_, hexec, hresult, hcode, hout, hcommit.done⟩
    · rw [pollEnds_statusWord, hcommit.busy]
      rfl
    · exact (State.runEnded_iff _).2 ⟨by simp, hcommit.busy⟩

end Sys2Proof.Machine

/-! SUPPORT. The facts that the proofs about the encoding table share: a letter's place in the source's list, its ROM index, and
LOOKUP's two commits. -/

namespace Sys2Proof.Machine

/-! ### The source's list (40_encoding_table_lut.md R100, R101) -/

theorem letterCodes_perm : letterCodes.Perm (List.range' 10 26) := by decide

theorem letterCodes_nodup : letterCodes.Nodup := letterCodes_perm.nodup_iff.2 List.nodup_range'

theorem mem_letterCodes_iff (n : Nat) : n ∈ letterCodes ↔ 10 ≤ n ∧ n ≤ 35 := by
  rw [letterCodes_perm.mem_iff, List.mem_range'_1]
  omega

/-- The letters I, O, W, X, Y and Z by their places. -/
theorem letterCodes_tens_eq_three_iff {k code : Nat} (hcode : letterCodes[k]? = some code) :
    code / 10 = 3 ↔ 0x41 + k ∈ [0x49, 0x4F, 0x57, 0x58, 0x59, 0x5A] := by
  have key : ∀ k : Fin letterCodes.length,
      letterCodes[k] / 10 = 3 ↔ 0x41 + k.val ∈ [0x49, 0x4F, 0x57, 0x58, 0x59, 0x5A] := by decide
  obtain ⟨hk, rfl⟩ := List.getElem?_eq_some_iff.1 hcode
  exact key ⟨k, hk⟩

/-! ### A letter's place in the list -/

theorem UpperCode.exists_place {c : Word} (h : UpperCode c) :
    ∃ k code, c.toNat = 0x41 + k ∧ letterCodes[k]? = some code := by
  obtain ⟨hlow, hhigh⟩ := h
  have hk : c.toNat - 0x41 < letterCodes.length := Nat.lt_of_le_of_lt (Nat.sub_le_sub_right hhigh _) (by decide)
  exact ⟨_, _, by omega, List.getElem?_eq_getElem hk⟩

theorem upperCode_of_place {c : Word} {k code : Nat} (hc : c.toNat = 0x41 + k) (hcode : letterCodes[k]? = some code) :
    UpperCode c := by
  have hk : k < 26 := (List.getElem?_eq_some_iff.1 hcode).1
  exact ⟨by omega, by omega⟩

theorem table_of_place {c : Word} {k code : Nat} (hc : c.toNat = 0x41 + k) (hcode : letterCodes[k]? = some code) :
    (tableTens c).toNat = code / 10 ∧ (tableUnits c).toNat = code % 10 := by
  have htable := table_eq_letterCodes c (upperCode_of_place hc hcode)
  rwa [hc, Nat.add_sub_cancel_left, List.getD_eq_getElem?_getD, hcode] at htable

/-- The two digits put together again. -/
theorem tableCode_of_place {c : Word} {k code : Nat} (hc : c.toNat = 0x41 + k) (hcode : letterCodes[k]? = some code) :
    (tableTens c).toNat * 10 + (tableUnits c).toNat = code := by
  obtain ⟨htens, hunits⟩ := table_of_place hc hcode
  rw [htens, hunits, Nat.div_add_mod']

/-- `c[4:0] - 1 = c - 0x41` (40_encoding_table_lut.md R103). -/
theorem romIndex_upper {c : Word} (h : UpperCode c) : romIndex c = c.toNat - 0x41 := by
  obtain ⟨hlow, hhigh⟩ := h
  simp only [romIndex, BitVec.extractLsb'_toNat, Nat.shiftRight_zero]
  omega

/-! ### LOOKUP (40_encoding_table_lut.md R102) -/

theorem exec_lookup_upper {s : State} (h : UpperCode s.chr[0]) :
    exec .lookup s = .next (s.completed ((tableTens s.chr[0] ++ tableUnits s.chr[0]).setWidth 32)) :=
  if_pos ((isUpper_iff _).2 h)

theorem exec_lookup_not_upper {s : State} (h : ¬ UpperCode s.chr[0]) : exec .lookup s = .next (s.failed .letter) :=
  if_neg (mt (isUpper_iff _).1 h)

/-- Two BCD digits as a zero-extended result (30_encoding.md R85). -/
theorem digitPair_word (t u : Nibble) : (t ++ u).setWidth 32 = BitVec.ofNat 32 (t.toNat * 16 + u.toNat) := by
  apply BitVec.eq_of_toNat_eq
  rw [BitVec.toNat_setWidth, BitVec.toNat_append, BitVec.toNat_ofNat, ← Nat.shiftLeft_add_eq_or_of_lt u.isLt,
    Nat.shiftLeft_eq]

theorem State.completed_commitsOk (s : State) (r : Word) : CommitsOk s (s.completed r) r s.out := by
  constructor <;> rfl

end Sys2Proof.Machine

/-! Proofs of the statements on the encoding table and LOOKUP (40_encoding_table_lut.md). -/

namespace Sys2Proof.Machine

/-- Settles O8: a code in the list's reach is an uppercase letter with the list's digits, and a code out of it is none. -/
theorem lookupFollowsTheLetterTable : Obligations.LookupFollowsTheLetterTable := by
  refine ⟨rfl, fun s k code hc hcode => ?_, fun s hout => ?_⟩
  · obtain ⟨htens, hunits⟩ := table_of_place hc hcode
    refine ⟨_, exec_lookup_upper (upperCode_of_place hc hcode), ?_⟩
    rw [digitPair_word, htens, hunits]
    exact s.completed_commitsOk _
  · have hnot : ¬ UpperCode s.chr[0] := fun ⟨hlow, hhigh⟩ => by omega
    exact ⟨_, exec_lookup_not_upper hnot, s.failed_commitsError .letter⟩

/-- Settles O9: the codes are the list's, which is the numbers 10 to 35 in another order, so a code has one place in it and
the bounds on digits and shares are arithmetic. -/
theorem tableCodesAreTenToThirtyFiveOnce : Obligations.TableCodesAreTenToThirtyFiveOnce := by
  refine ⟨fun n hlow hhigh => ?_, fun c hc => ?_, by decide⟩
  · obtain ⟨k, hk⟩ := List.mem_iff_getElem?.1 ((mem_letterCodes_iff n).2 ⟨hlow, hhigh⟩)
    have hlt : k < 26 := (List.getElem?_eq_some_iff.1 hk).1
    have hletter : (BitVec.ofNat 32 (0x41 + k)).toNat = 0x41 + k := Nat.mod_eq_of_lt (by omega)
    refine ⟨_, upperCode_of_place hletter hk, tableCode_of_place hletter hk, fun j hj hcode => ?_⟩
    obtain ⟨i, code, hi, hplace⟩ := hj.exists_place
    obtain rfl : code = n := (tableCode_of_place hi hplace).symm.trans hcode
    obtain rfl : k = i := (List.getElem?_inj hlt letterCodes_nodup).1 (hk.trans hplace.symm)
    exact BitVec.eq_of_toNat_eq (hi.trans hletter.symm)
  · obtain ⟨k, code, hk, hcode⟩ := hc.exists_place
    obtain ⟨htens, hunits⟩ := table_of_place hk hcode
    obtain ⟨hlow, hhigh⟩ := (mem_letterCodes_iff code).1 (List.mem_of_getElem? hcode)
    have hrom : k < encodingRom.length := (List.getElem?_eq_some_iff.1 hcode).1
    have hthree := letterCodes_tens_eq_three_iff hcode
    rw [tableCode_of_place hk hcode, htens, hunits, romIndex_upper hc, hk, Nat.add_sub_cancel_left]
    exact ⟨hlow, hhigh, by omega, by omega, by omega, hthree, by omega, rfl, hrom⟩

end Sys2Proof.Machine

/-! SUPPORT. The facts that the proofs about the checksum engine share: DigitCheck over all eleven fields and over the first
ten, the bounds on a weighted sum, the results as words, each command's two commits, and a digit put into EXP[10]. -/

namespace Sys2Proof.Machine

/-! ### DigitCheck's two outcomes (41_checksum_engine.md R122) -/

theorem withDigits_eleven (f : Nat → Word) {s : State} (h : ∀ i : Fin 11, s.exp[i].toNat ≤ 9) :
    withDigits 11 f s = .next (s.completed (f (expSum s.exp))) := by
  rw [withDigits_ok 11 f s ((digitsOk_iff s).2 h), weightedSum_expDigits]

theorem withDigits_eleven_error (f : Nat → Word) {s : State} {i : Fin 11} (hi : 9 < s.exp[i].toNat) :
    withDigits 11 f s = .next (s.failed .digit) :=
  withDigits_error 11 f s (Bool.eq_false_iff.2 fun hok => Nat.not_le.2 hi ((digitsOk_iff s).1 hok i))

theorem withDigits_ten (f : Nat → Word) {s : State} (h : ∀ i : Fin 11, i.val ≤ 9 → s.exp[i].toNat ≤ 9) :
    withDigits 10 f s = .next (s.completed (f (expPartialSum s.exp))) := by
  rw [withDigits_ok 10 f s ((digitsOk_partial_iff s).2 h), weightedSum_expDigits_partial]

theorem withDigits_ten_error (f : Nat → Word) {s : State} {i : Fin 11} (hle : i.val ≤ 9) (hi : 9 < s.exp[i].toNat) :
    withDigits 10 f s = .next (s.failed .digit) :=
  withDigits_error 10 f s (Bool.eq_false_iff.2 fun hok => Nat.not_le.2 hi ((digitsOk_partial_iff s).1 hok i hle))

/-! ### Bounds on a weighted sum (41_checksum_engine.md R121) -/

/-- Each digit adds at most nine times its weight. -/
theorem sum_zipWith_mul_le_nine_mul {e : List Nat} (hdigits : ∀ d ∈ e, d ≤ 9) (ws : List Nat) {n : Nat}
    (hlen : e.length ≤ n) : (List.zipWith (fun d w => d * w) e ws).sum ≤ 9 * (ws.take n).sum := by
  induction e generalizing ws n with
  | nil => simp
  | cons d ds ih =>
    obtain ⟨m, rfl⟩ : ∃ m, n = m + 1 := Nat.exists_eq_add_one.2 (Nat.lt_of_lt_of_le (Nat.succ_pos _) hlen)
    obtain ⟨hd, hds⟩ := List.forall_mem_cons.1 hdigits
    cases ws with
    | nil => simp
    | cons w ws =>
      rw [List.zipWith_cons_cons, List.take_succ_cons, List.sum_cons, List.sum_cons, Nat.mul_add]
      exact Nat.add_le_add (Nat.mul_le_mul_right w hd) (ih hds ws (Nat.le_of_succ_le_succ hlen))

theorem weightedSum_le_of_length_le_ten {e : List Nat} (hdigits : ∀ d ∈ e, d ≤ 9) (hlen : e.length ≤ 10) :
    weightedSum e ≤ 414 :=
  sum_zipWith_mul_le_nine_mul hdigits weights hlen

theorem expSum_le {s : State} (h : ∀ i : Fin 11, s.exp[i].toNat ≤ 9) : expSum s.exp ≤ 423 := by
  have hok : s.digitsOk 11 = true := (digitsOk_iff s).2 h
  rw [← weightedSum_expDigits]
  exact weightedSum_le _ (by simpa [State.digitsOk] using hok)

/-! ### Results as words (30_encoding.md R85) -/

theorem sumWord_eq {n : Nat} (h : n ≤ 423) : sumWord n = BitVec.ofNat 32 n :=
  BitVec.setWidth_ofNat_of_le_of_lt (by decide) (by omega)

theorem boolWord_passes (n : Nat) : boolWord (passes n) = if n % 10 = 0 then 1 else 0 := by
  simp only [boolWord, passes, beq_iff_eq]

theorem boolWord_passes_eq_one_iff (n : Nat) : boolWord (passes n) = 1 ↔ n % 10 = 0 := by
  simp [boolWord_passes]

theorem checkDigit_word_toNat (p : Nat) : (BitVec.ofNat 32 (checkDigit p)).toNat = checkDigit p :=
  Nat.mod_eq_of_lt (Nat.lt_of_le_of_lt (checkDigit_le p) (by decide))

/-! ### The commands on digits (41_checksum_engine.md R123 to R125) -/

theorem exec_wsum_digits {s : State} (h : ∀ i : Fin 11, s.exp[i].toNat ≤ 9) :
    exec .wsum s = .next (s.completed (BitVec.ofNat 32 (expSum s.exp))) := by
  rw [← sumWord_eq (expSum_le h)]
  exact withDigits_eleven sumWord h

theorem exec_check_digits {s : State} (h : ∀ i : Fin 11, s.exp[i].toNat ≤ 9) :
    exec .check s = .next (s.completed (boolWord (passes (expSum s.exp)))) :=
  withDigits_eleven (fun w => boolWord (passes w)) h

theorem exec_solve_digits {s : State} (h : ∀ i : Fin 11, i.val ≤ 9 → s.exp[i].toNat ≤ 9) :
    exec .solve s = .next (s.completed (BitVec.ofNat 32 (checkDigit (expPartialSum s.exp)))) :=
  withDigits_ten (fun p => BitVec.ofNat 32 (checkDigit p)) h

theorem exec_wsum_not_digit {s : State} {i : Fin 11} (hi : 9 < s.exp[i].toNat) :
    exec .wsum s = .next (s.failed .digit) :=
  withDigits_eleven_error sumWord hi

theorem exec_check_not_digit {s : State} {i : Fin 11} (hi : 9 < s.exp[i].toNat) :
    exec .check s = .next (s.failed .digit) :=
  withDigits_eleven_error (fun w => boolWord (passes w)) hi

theorem exec_solve_not_digit {s : State} {i : Fin 11} (hle : i.val ≤ 9) (hi : 9 < s.exp[i].toNat) :
    exec .solve s = .next (s.failed .digit) :=
  withDigits_ten_error (fun p => BitVec.ofNat 32 (checkDigit p)) hle hi

/-! ### A digit put into EXP[10] (41_checksum_engine.md R126) -/

theorem add_digit_mod_ten_eq_zero_iff {p d : Nat} (hd : d ≤ 9) : (p + d) % 10 = 0 ↔ d = checkDigit p := by
  simp only [checkDigit]
  omega

theorem expSum_set_last (e : Vector Nibble 11) (d : Nibble) : expSum (e.set 10 d) = expPartialSum e + d.toNat := by
  simp [expSum, expPartialSum]

theorem set_last_le_nine {e : Vector Nibble 11} {d : Nibble} (he : ∀ i : Fin 11, i.val ≤ 9 → e[i].toNat ≤ 9)
    (hd : d.toNat ≤ 9) (i : Fin 11) : (e.set 10 d)[i].toNat ≤ 9 := by
  rw [Fin.getElem_fin, Vector.getElem_set]
  split
  · exact hd
  · exact he i (by omega)

end Sys2Proof.Machine

/-! Proofs of the statements on the checksum engine (41_checksum_engine.md). -/

namespace Sys2Proof.Machine

/-- Settles O10. -/
theorem wsumReturnsTheWeightedSum : Obligations.WsumReturnsTheWeightedSum :=
  ⟨rfl, fun s h => ⟨_, exec_wsum_digits h, s.completed_commitsOk _, expSum_le h⟩,
    fun s _ hi => ⟨_, exec_wsum_not_digit hi, s.failed_commitsError .digit⟩⟩

/-- Settles O11. -/
theorem checkTestsTheSumModuloTen : Obligations.CheckTestsTheSumModuloTen := by
  refine ⟨rfl, fun s h => ⟨_, exec_check_digits h, ?_⟩,
    fun s _ hi => ⟨_, exec_check_not_digit hi, s.failed_commitsError .digit⟩⟩
  rw [← boolWord_passes]
  exact s.completed_commitsOk _

/-- Settles O12: DigitCheck and the sum are of the first ten fields only. -/
theorem solveReturnsTheCheckDigit : Obligations.SolveReturnsTheCheckDigit :=
  ⟨rfl, fun s h => ⟨_, exec_solve_digits h, s.completed_commitsOk _⟩,
    fun s _ hle hi => ⟨_, exec_solve_not_digit hle hi, s.failed_commitsError .digit⟩⟩

/-- Settles O13: a sum is at most nine times the sum of the weights it uses, far below 2 to the 16th. -/
theorem weightedSumsNeverWrap : Obligations.WeightedSumsNeverWrap := by
  intro e hdigits _
  have hle := weightedSum_le e hdigits
  refine ⟨hle, weightedSum_le_of_length_le_ten hdigits, ?_⟩
  rw [sumWord_eq hle]
  exact Nat.mod_eq_of_lt (Nat.lt_of_le_of_lt hle (by decide))

/-- Settles O14: EXP[10] has weight 1, so the sum is the partial sum plus the digit, and the check digit is the only one that
brings it to a multiple of ten. -/
theorem solvedDigitIsTheOnlyOneThatPasses : Obligations.SolvedDigitIsTheOnlyOneThatPasses := by
  intro s h
  have hsolved := checkDigit_word_toNat (expPartialSum s.exp)
  refine ⟨_, exec_solve_digits h, hsolved.trans_le (checkDigit_le _), fun u d hd hu => ?_⟩
  have hsum : expSum u.exp % 10 = 0 ↔ d.toNat = (BitVec.ofNat 32 (checkDigit (expPartialSum s.exp))).toNat := by
    rw [hu, expSum_set_last, add_digit_mod_ten_eq_zero_iff hd, hsolved]
  have hdigits : ∀ i : Fin 11, u.exp[i].toNat ≤ 9 := hu ▸ set_last_le_nine h hd
  exact ⟨hsum, _, exec_check_digits hdigits, rfl, (boolWord_passes_eq_one_iff _).trans hsum⟩

end Sys2Proof.Machine

/-! SUPPORT. The facts that the proofs about the string validator share: the ten characters that are a valid ID, VALIDATE's one
commit, and CHECK of an expansion buffer given as a list of digits. -/

namespace Sys2Proof.Machine

/-! ### Valid IDs (42_validation.md R150) -/

theorem validId_toList (v : Vector Word 10) :
    validId v.toList = (wellShaped v.toList && passes (weightedSum (expand v.toList))) := by
  simp [validId]

theorem validId_iff (v : Vector Word 10) :
    validId v.toList = true ↔
      UpperCode v[0] ∧ (∀ k : Fin 10, 1 ≤ k.val → DigitCode v[k]) ∧ idSum v % 10 = 0 := by
  rw [validId_toList, Bool.and_eq_true, wellShaped_iff, and_assoc]
  exact and_congr_right fun hletter => by rw [weightedSum_expand v hletter, passes, beq_iff_eq]

/-! ### VALIDATE (42_validation.md R150, R152) -/

/-- The three branches commit one truth value. -/
theorem exec_validate (s : State) :
    exec .validate s = .next (s.completed (boolWord (decide (s.len = 10) && validId s.chr.toList))) := by
  change execValidate s = _
  unfold execValidate
  split
  next hlen => rw [decide_eq_false hlen]; rfl
  next hlen =>
    rw [decide_eq_true (not_not.1 hlen), validId_toList]
    split
    next hshape => rw [hshape]; rfl
    next hshape => rw [Bool.eq_false_iff.2 hshape]; rfl

/-! ### CHECK of a list of digits (41_checksum_engine.md R124) -/

theorem exec_check_of_exp_eq {s : State} {e : List Nat} (he : s.exp.toList.map BitVec.toNat = e)
    (hdigits : ∀ d ∈ e, d ≤ 9) : exec .check s = .next (s.completed (boolWord (passes (weightedSum e)))) := by
  obtain rfl : s.expDigits 11 = e := by rw [State.expDigits, List.take_of_length_le (by simp), he]
  have hok : s.digitsOk 11 = true := by simpa [State.digitsOk] using hdigits
  exact withDigits_ok 11 (fun w => boolWord (passes w)) s hok

end Sys2Proof.Machine

/-! Proofs of the statements on VALIDATE (42_validation.md). -/

namespace Sys2Proof.Machine

/-- Settles O15: VALIDATE has one commit, a success, and its truth value is LEN = 10 and a valid ID in CHR. -/
theorem validateDecidesEveryString : Obligations.ValidateDecidesEveryString := by
  refine ⟨rfl, fun s => ⟨_, _, exec_validate s, s.completed_commitsOk _, rfl, ?_⟩⟩
  rw [Bool.and_eq_true, decide_eq_true_iff, validId_iff]

/-- Settles O16: both commands test the sum of the characters' expansion, whose digits pass DigitCheck. -/
theorem validateAgreesWithCheck : Obligations.ValidateAgreesWithCheck := by
  intro s u hlen hletter hdigits hexp
  have hshape : wellShaped s.chr.toList = true := (wellShaped_iff s.chr).2 ⟨hletter, hdigits⟩
  refine ⟨_, _, exec_validate s, exec_check_of_exp_eq hexp (expand_le_nine _ hshape), rfl, ?_⟩
  rw [decide_eq_true hlen, validId_toList, hshape]
  rfl

end Sys2Proof.Machine

/-! SUPPORT. The facts that the proofs about the ID generator share: GENERATE's outcomes, what the draws come to, the ID that
is written out, the commit with CODE 0, and one answered draw after another. -/

namespace Sys2Proof.Machine

/-! ### PrefixCheck (43_id_generator.md R171) -/

theorem prefixError_long {s : State} (h : 9 < s.len.toNat) : prefixError s = some .prefixLen :=
  if_pos h

theorem prefixError_misshapen {s : State} (h1 : 1 ≤ s.len.toNat) (h9 : s.len.toNat ≤ 9)
    (hbad : ¬ UpperCode s.chr[0] ∨ ∃ k : Fin 10, 1 ≤ k.val ∧ k.val < s.len.toNat ∧ ¬ DigitCode s.chr[k]) :
    prefixError s = some .prefixShape := by
  have hshape : ¬ wellShaped s.prefixChars = true := by
    rw [prefixChars_shaped_iff s h1 h9]
    rintro ⟨hletter, hdigits⟩
    rcases hbad with hbad | ⟨k, hk1, hk, hbad⟩
    · exact hbad hletter
    · exact hbad (hdigits k hk1 hk)
  rw [prefixError, if_neg (Nat.not_lt.2 h9), if_neg (Nat.pos_iff_ne_zero.1 h1), if_neg hshape]

/-- Whether GENERATE takes the supplied characters depends on LEN and CHR only. -/
theorem GoodPrefix.congr {s t : State} (h : GoodPrefix s) (hlen : t.len = s.len) (hchr : t.chr = s.chr) : GoodPrefix t := by
  obtain ⟨hlength, hletter, hdigits⟩ := h
  rw [← hlen] at hlength hletter hdigits
  rw [← hchr] at hletter hdigits
  exact ⟨hlength, hletter, hdigits⟩

/-! ### GENERATE's outcomes (43_id_generator.md R172) -/

theorem exec_generate_badPrefix {s : State} {e : CmdError} (h : prefixError s = some e) :
    exec .generate s = .next (s.failed e) := by
  simp [exec, execGenerate, h, raiseError]

section

variable {s : State} (hp : GoodPrefix s)

include hp

theorem exec_generate_drawn {cs : List Word} (hd : s.drawState = .drawn cs) :
    exec .generate s = .next ((s.withOut (finishId (s.prefixChars ++ cs))).completed 0) := by
  simp [exec, execGenerate, (prefixError_eq_none_iff s).2 hp, hd, complete]

theorem exec_generate_outOfRange (hd : s.drawState = .outOfRange) : exec .generate s = .next (s.failed .entropy) := by
  simp [exec, execGenerate, (prefixError_eq_none_iff s).2 hp, hd, raiseError]

theorem exec_generate_waiting {r : DrawRange} (hd : s.drawState = .waiting r) :
    exec .generate s = .next (s.requested r) := by
  simp [exec, execGenerate, (prefixError_eq_none_iff s).2 hp, hd]

end

/-- Of GENERATE's outcomes only the success leaves a busy block idle with CODE 0. -/
theorem exec_generate_success {s t : State} (hb : s.busy = true) (h : exec .generate s = .next t)
    (hidle : t.busy = false) (hcode : t.code = 0) :
    GoodPrefix s ∧ ∃ cs, s.drawState = .drawn cs ∧ t = (s.withOut (finishId (s.prefixChars ++ cs))).completed 0 := by
  rcases exec_cases .generate s with ⟨r, hne, -⟩ | ⟨e, -, he⟩ | ⟨cs, -, hp, hd, he⟩ | ⟨r, -, -, -, he⟩
  · exact absurd rfl hne
  · obtain rfl := Host.Outcome.next.inj (he.symm.trans h)
    exact absurd hcode (code_ne_zero e)
  · exact ⟨(prefixError_eq_none_iff s).1 hp, cs, hd, Host.Outcome.next.inj (h.symm.trans he)⟩
  · obtain rfl := Host.Outcome.next.inj (he.symm.trans h)
    simp [hb] at hidle

/-! ### What the draws come to (43_id_generator.md R170, R173) -/

theorem AnswersInRange.lt_size {s : State} {m : Nat} (h : AnswersInRange s m) {j : Nat}
    (hj : j < (drawRanges s.len.toNat).length) (hjm : j < m) :
    (s.answers.getD j 0).toNat < ((drawRanges s.len.toNat)[j]).size := by
  rw [drawRanges_getElem, slotRange_size]
  exact h j hjm

theorem drawState_drawn {s : State} (hlen : 9 - s.len.toNat ≤ s.answers.length)
    (h : AnswersInRange s (9 - s.len.toNat)) : ∃ cs, s.drawState = .drawn cs := by
  rw [← drawRanges_length] at hlen h
  exact drawAll_of_inRange _ _ hlen fun j hj => h.lt_size hj hj

theorem drawState_outOfRange {s : State} {j : Nat} (hj : j < s.answers.length) (h9 : s.len.toNat + j < 9)
    (h : AnswersInRange s j) (hbad : slotSize (s.len.toNat + j) ≤ (s.answers.getD j 0).toNat) :
    s.drawState = .outOfRange := by
  have hopen : j < (drawRanges s.len.toNat).length := by rw [drawRanges_length]; omega
  refine drawAll_outOfRange _ _ j hopen hj (fun k hk hkj => h.lt_size hk hkj) ?_
  rwa [drawRanges_getElem, slotRange_size]

theorem drawState_waiting {s : State} (h9 : s.len.toNat + s.answers.length < 9)
    (h : AnswersInRange s s.answers.length) :
    s.drawState = .waiting (slotRange (s.len.toNat + s.answers.length)) := by
  have hopen : s.answers.length < (drawRanges s.len.toNat).length := by rw [drawRanges_length]; omega
  rw [← drawRanges_getElem _ _ hopen]
  exact drawAll_waiting _ _ hopen fun k hk hkj => h.lt_size hk hkj

/-! ### The ID written out (43_id_generator.md R172) -/

theorem finishId_getElem_slot (slots : List Word) (hl : slots.length = 9) (k : Fin 10) (hk : k.val < 9) :
    (finishId slots)[k] = slots.getD k.val 0 := by
  simp [finishId, List.getElem?_append_left (hl.symm ▸ hk)]

theorem finishId_getElem_last (slots : List Word) (hl : slots.length = 9) :
    (finishId slots)[9] = digitChar (checkDigit (weightedSum (expand slots))) := by
  simp [finishId, ← hl]

theorem expand_append_digit {slots : List Word} (hne : slots ≠ []) (c : Word) :
    expand (slots ++ [c]) = expand slots ++ [digitVal c] := by
  obtain ⟨letter, digits, rfl⟩ := List.exists_cons_of_ne_nil hne
  simp [expand]

theorem expand_length {slots : List Word} (hne : slots ≠ []) : (expand slots).length = slots.length + 1 := by
  obtain ⟨letter, digits, rfl⟩ := List.exists_cons_of_ne_nil hne
  simp [expand]

/-- The sum that the machine takes of the nine slots is the written-out one: both leave the check digit out of the ID's
sum. -/
theorem weightedSum_expand_slots (slots : List Word) (hl : slots.length = 9) (hs : wellShaped slots = true) :
    weightedSum (expand slots) = idPartialSum (finishId slots) := by
  have hne : slots ≠ [] := List.ne_nil_of_length_eq_add_one hl
  obtain ⟨hletter, -, -⟩ := (validId_iff _).1 (finishId_valid slots hl hs)
  have hsum := weightedSum_expand (finishId slots) hletter
  rw [finishId_toList slots hl, expand_append_digit hne, weightedSum_append_last _ _ (by rw [expand_length hne, hl]),
    idSum, finishId_getElem_last slots hl, Nat.mul_one] at hsum
  exact Nat.add_right_cancel hsum

/-- What a success of GENERATE writes, slot by slot: the supplied characters, then the drawn ones, each in its range, then
the check digit. -/
theorem finishId_slots {s : State} {cs : List Word} (hp : GoodPrefix s) (hd : s.drawState = .drawn cs) :
    (∀ k : Fin 10, k.val < s.len.toNat → (finishId (s.prefixChars ++ cs))[k] = s.chr[k]) ∧
    (∀ k : Fin 10, s.len.toNat ≤ k.val → k.val < 9 →
      (s.answers.getD (k.val - s.len.toNat) 0).toNat < slotSize k.val ∧
      (finishId (s.prefixChars ++ cs))[k] =
        BitVec.ofNat 32 (slotFirst k.val + (s.answers.getD (k.val - s.len.toNat) 0).toNat)) ∧
    (finishId (s.prefixChars ++ cs))[9] =
      BitVec.ofNat 32 (0x30 + (10 - idPartialSum (finishId (s.prefixChars ++ cs)) % 10) % 10) := by
  obtain ⟨hl, hprefix, hdrawn⟩ := slots_spec s cs hp hd
  refine ⟨fun k hk => ?_, fun k hk hk9 => ?_, ?_⟩
  · rw [finishId_getElem_slot _ hl k (Nat.lt_of_lt_of_le hk hp.length), hprefix k hk]
  · rw [finishId_getElem_slot _ hl k hk9]
    exact hdrawn k.val hk hk9
  · rw [finishId_getElem_last _ hl, weightedSum_expand_slots _ hl (slots_shaped s cs hp hd)]
    rfl

theorem State.withOut_completed_commitsOk (s : State) (o : Vector Word 10) (r : Word) :
    CommitsOk s ((s.withOut o).completed r) r o := by
  constructor <;> rfl

/-! ### The ID read back (42_validation.md R150, R154) -/

theorem exec_validate_validId {s : State} (hlen : s.len = 10) (h : validId s.chr.toList = true) :
    exec .validate s = .next (s.completed 1) := by
  rw [exec_validate, decide_eq_true hlen, h]
  rfl

/-- A state whose CHR holds a valid ID with this character in the category position. -/
def withCategory (d : Word) : State :=
  { State.reset with len := 10, chr := finishId (0x41 :: d :: List.replicate 7 0x30) }

theorem withCategory_category (d : Word) : (withCategory d).chr[1] = d :=
  finishId_getElem_slot (0x41 :: d :: List.replicate 7 0x30) rfl 1 (by decide)

theorem withCategory_valid {d : Word} (hd : DigitCode d) : validId (withCategory d).chr.toList = true := by
  refine finishId_valid _ rfl ?_
  rw [wellShaped, List.all_cons, (isDigit_iff d).2 hd]
  rfl

/-! ### Draws answered one by one (43_id_generator.md R173; log 3, 18) -/

/-- A GENERATE in flight, between two draws, whose open draws get the answers `vs`: these complete the answers so far to one
in-range answer for each draw. -/
structure Answering (s : State) (vs : List Answer) : Prop where
  busy : s.busy = true
  decoded : decode s.pending = .ok .generate
  goodPrefix : GoodPrefix s
  request : s.request = none
  length : s.len.toNat + (s.answers ++ vs).length = 9
  inRange : ∀ j, s.len.toNat + j < 9 → ((s.answers ++ vs).getD j 0).toNat < slotSize (s.len.toNat + j)
  inbox : s.inbox = drawEvents s.sent vs

/-- `s` after one more draw: its request was sent and answered with `v`, and these events are still to come. -/
def State.afterDraw (s : State) (v : Answer) (rest : List Event) : State :=
  { s with answers := s.answers ++ [v], drawn := s.drawn ++ [v], sent := s.sent + 1, inbox := rest }

theorem step_answer_after_request {s : State} (r : DrawRange) (v : Answer) (rest : List Event)
    (hrequest : s.request = none) :
    step ((s.withInbox (.answer (s.sent + 1) v :: rest)).requested r) = .next (s.afterDraw v rest) := by
  rw [State.requested_first (s.withInbox (.answer (s.sent + 1) v :: rest)) r hrequest,
    step_cons _ (.answer (s.sent + 1) v) rest rfl, deliver]
  refine congrArg Host.Outcome.next ((State.answered_taken _ v r rfl).trans ?_)
  rw [State.afterDraw, ← hrequest]
  rfl

namespace Answering

variable {s : State} {v : Answer} {vs : List Answer}

theorem answersInRange (h : Answering s vs) : AnswersInRange s s.answers.length := by
  intro j hj
  have hlength := h.length
  rw [List.length_append] at hlength
  have hv := h.inRange j (by omega)
  rwa [List.getD_append _ _ _ _ hj] at hv

theorem afterDraw (h : Answering s (v :: vs)) : Answering (s.afterDraw v (drawEvents (s.sent + 1) vs)) vs := by
  have happend : s.answers ++ v :: vs = s.answers ++ [v] ++ vs := List.append_cons s.answers v vs
  exact ⟨h.busy, h.decoded, h.goodPrefix.congr rfl rfl, h.request, happend ▸ h.length, happend ▸ h.inRange, rfl⟩

/-- The block's turn, whatever events stand behind it. -/
theorem blockTurn_eq (h : Answering s vs) (l : List Event) :
    blockTurn (s.withInbox l) = exec .generate (s.withInbox l) :=
  blockTurn_decoded (s := s.withInbox l) h.busy h.decoded

theorem run_draw (h : Answering s (v :: vs)) :
    core.run 2 s = .next (s.afterDraw v (drawEvents (s.sent + 1) vs)) := by
  have hopen : s.len.toNat + s.answers.length < 9 := by
    have hlength := h.length
    rw [List.length_append, List.length_cons] at hlength
    omega
  have hwaiting := drawState_waiting hopen h.answersInRange
  have hsend := exec_generate_waiting (s := s.withInbox (.answer (s.sent + 1) v :: drawEvents (s.sent + 1) vs))
    (h.goodPrefix.congr rfl rfl) hwaiting
  have hstep := (step_cons s _ _ h.inbox).trans ((h.blockTurn_eq _).trans hsend)
  exact core_run_two hstep (step_answer_after_request _ v _ h.request)

theorem run_commit (h : Answering s []) : ∃ t, core.run 1 s = .next t ∧ t.busy = false ∧ t.done = true ∧ t.code = 0 ∧
    validId t.out.toList = true ∧ t.drawn = s.drawn := by
  have hlength : 9 - s.len.toNat = s.answers.length := by
    have hlength := h.length
    rw [List.append_nil] at hlength
    omega
  obtain ⟨cs, hd⟩ := drawState_drawn hlength.le (hlength ▸ h.answersInRange)
  have hcommit := exec_generate_drawn (s := s.withInbox []) (h.goodPrefix.congr rfl rfl) hd
  have hstep := (step_cons s _ _ h.inbox).trans ((h.blockTurn_eq []).trans hcommit)
  exact ⟨_, core_run_succ 0 s _ hstep, rfl, rfl, rfl,
    generated_valid s cs ((prefixError_eq_none_iff s).2 h.goodPrefix) hd, rfl⟩

/-- Draw after draw, and then the commit. -/
theorem run (h : Answering s vs) : ∃ t, core.run (2 * vs.length + 1) s = .next t ∧ t.busy = false ∧ t.done = true ∧
    t.code = 0 ∧ validId t.out.toList = true ∧ t.drawn = s.drawn ++ vs := by
  induction vs generalizing s with
  | nil =>
    rw [List.append_nil]
    exact h.run_commit
  | cons v vs ih =>
    obtain ⟨t, ht, hbusy, hdone, hcode, hvalid, hdrawn⟩ := ih h.afterDraw
    refine ⟨t, ?_, hbusy, hdone, hcode, hvalid, hdrawn.trans (List.append_cons s.drawn v vs).symm⟩
    rw [List.length_cons, show 2 * (vs.length + 1) + 1 = 2 + (2 * vs.length + 1) by omega, core_run_add _ h.run_draw, ht]

end Answering

end Sys2Proof.Machine

/-! Proofs of the statements on GENERATE and the entropy port (43_id_generator.md). -/

namespace Sys2Proof.Machine

/-! ### PrefixCheck and the draws -/

/-- Settles O17: a failed PrefixCheck is an error commit, which leaves the draws alone and no request in flight. -/
theorem badPrefixDrawsNothing : Obligations.BadPrefixDrawsNothing := by
  refine fun s => ⟨fun hlong => ?_, fun h1 h9 hbad => ?_, (prefixError_eq_none_iff s).2⟩
  · exact ⟨_, exec_generate_badPrefix (prefixError_long hlong), s.failed_commitsError .prefixLen, rfl, rfl, rfl⟩
  · have hshape := prefixError_misshapen h1 h9 hbad
    exact ⟨_, exec_generate_badPrefix hshape, s.failed_commitsError .prefixShape, rfl, rfl, rfl⟩

/-- Settles O18: the draws come to characters, and the ID is the supplied characters, these and the check
digit of the nine. -/
theorem generateCompletesThePrefix : Obligations.GenerateCompletesThePrefix := by
  refine ⟨rfl, fun s hp hlen hrange => ?_⟩
  obtain ⟨cs, hd⟩ := drawState_drawn hlen hrange
  obtain ⟨hprefix, hdrawn, hlast⟩ := finishId_slots hp hd
  exact ⟨_, _, exec_generate_drawn hp hd, s.withOut_completed_commitsOk _ 0, hprefix,
    fun k hk hk9 => (hdrawn k hk hk9).2, hlast⟩

/-- Settles O19. -/
theorem firstBadAnswerIsErrEntropy : Obligations.FirstBadAnswerIsErrEntropy := by
  intro s j hp hj h9 hrange hbad
  have hd := drawState_outOfRange hj h9 hrange hbad
  exact ⟨_, exec_generate_outOfRange hp hd, s.failed_commitsError .entropy, rfl⟩

/-- Settles O46. -/
theorem answerIsTakenOnlyByARequest : Obligations.AnswerIsTakenOnlyByARequest := by
  intro s n v rest hi
  rw [step_cons s _ rest hi, deliver]
  refine ⟨fun hignored => ?_, ?_⟩
  · rw [State.answered_ignored (s.withInbox rest) n v hignored]
  · rintro r hr rfl
    exact congrArg Host.Outcome.next (State.answered_taken (s.withInbox rest) v r hr)

/-- Settles O24: a GENERATE before its first draw is `Answering`, with all its answers to come. -/
theorem answeredGenerateRunsToItsCommit : Obligations.AnsweredGenerateRunsToItsCommit := by
  intro s vs hb hd hp hanswers hrequest hlength hrange hinbox
  have h9 := hp.length
  refine Answering.run ⟨hb, hd, hp, hrequest, ?_, fun j hj => ?_, hinbox⟩
  · rw [hanswers, List.nil_append]
    omega
  · rw [hanswers]
    exact hrange j (by omega)

/-! ### The generated ID -/

/-- Settles O21: OUT is a valid ID, and COPYOUT loads CHR with it and LEN with 10. -/
theorem generatedIdIsValidAndKeepsItsPrefix : Obligations.GeneratedIdIsValidAndKeepsItsPrefix := by
  intro s t hb h hidle hcode
  obtain ⟨hp, cs, hd, rfl⟩ := exec_generate_success hb h hidle hcode
  obtain ⟨hprefix, -, -⟩ := finishId_slots hp hd
  have hvalid := generated_valid s cs ((prefixError_eq_none_iff s).2 hp) hd
  obtain ⟨hletter, hdigits, -⟩ := (validId_iff _).1 hvalid
  refine ⟨hprefix, hletter, hdigits, ?_⟩
  rw [hostAccesses_copyout _ _ hidle]
  exact ⟨_, exec_validate_validId rfl hvalid, rfl, rfl⟩

/-- Settles O22: position 1 is a slot like the others, drawn from the range of 2 that starts at `1` or copied; and VALIDATE
takes the ID that GENERATE's check digit completes. -/
theorem categoryDigitIsDrawnAsOneOrTwo : Obligations.CategoryDigitIsDrawnAsOneOrTwo := by
  refine ⟨fun s t hb h hidle hcode => ?_, fun d hd => ?_⟩
  · obtain ⟨hp, cs, hd, rfl⟩ := exec_generate_success hb h hidle hcode
    obtain ⟨hprefix, hdrawn, -⟩ := finishId_slots hp hd
    refine ⟨fun hlen => ?_, fun hlen => ⟨hp.digits 1 (by decide) hlen, hprefix 1 hlen⟩⟩
    obtain ⟨hrange, hchar⟩ := hdrawn 1 hlen (by decide)
    have hle : (s.answers.getD (1 - s.len.toNat) 0).toNat ≤ 1 := Nat.le_of_lt_succ hrange
    refine ⟨_, hle, (congrArg BitVec.toNat hchar).trans (Nat.mod_eq_of_lt ?_)⟩
    exact Nat.lt_of_le_of_lt (Nat.add_le_add_left hle _) (by decide)
  · exact ⟨withCategory d, _, withCategory_category d, exec_validate_validId rfl (withCategory_valid hd), rfl⟩

/-- Settles O23: of a command's outcomes only GENERATE's success writes OUT. -/
theorem outChangesAllAtOnceOrNotAtAll : Obligations.OutChangesAllAtOnceOrNotAtAll := by
  intro i s t h
  rcases exec_cases i s with ⟨r, -, -, he⟩ | ⟨e, -, he⟩ | ⟨cs, hgen, hp, hd, he⟩ | ⟨r, -, -, -, he⟩ <;>
    obtain rfl := Host.Outcome.next.inj (he.symm.trans h)
  · exact .inl rfl
  · exact .inl rfl
  · exact .inr ⟨hgen, rfl, rfl, rfl, generated_valid s cs hp hd⟩
  · exact .inl (s.requested_out r)

end Sys2Proof.Machine

/-! SUPPORT. The facts that the proofs about errors and the invariant share: what each update does to the invariant, and what
a step leaves of the events to come. -/

namespace Sys2Proof.Machine

/-! ### The error codes (60_exceptions.md R201) -/

theorem CmdError.code_range (e : CmdError) : 1 ≤ e.code.toNat ∧ e.code.toNat ≤ 6 := by
  cases e <;> decide

/-! ### The invariant under each update -/

namespace State.Inv

variable {s : State} (hi : s.Inv)

include hi

/-- An idle block has no use of the entropy port (10_state.md R35 b). -/
theorem port_closed (hb : s.busy = false) : s.request = none ∧ s.answers = [] := by
  by_contra hopen
  rw [not_and_or] at hopen
  obtain ⟨hbusy, -, -⟩ := hi.port_owner hopen
  simp [hb] at hbusy

/-- PROTO and the bus's answer stand in no clause. -/
theorem withBus (p : Bool) (resp : Option BusResponse) : State.Inv { s with proto := p, response := resp } :=
  { hi with }

/-- The part that every commit has: the command ends and the port closes. -/
theorem commandEnded : State.Inv { s with busy := false, done := true, request := none, answers := [] } :=
  { hi with
    busy_done := nofun
    fresh := fun _ => nofun
    port_owner := fun hopen => by simp at hopen
    request_next := fun _ => nofun
    answers_asked := fun hne => absurd rfl hne
    answers_drawn := List.nil_suffix }

theorem completed {r : Word} (hr : r.toNat ≤ 423) : (s.completed r).Inv :=
  { hi.commandEnded with
    code_defined := Nat.zero_le _
    code_fault := fun hne => absurd rfl hne
    code_result := fun hne => absurd rfl hne
    result_bound := hr
    fresh := fun _ => nofun }

theorem failed (e : CmdError) : (s.failed e).Inv :=
  { hi.commandEnded with
    code_defined := e.code_range.2
    code_fault := fun _ => rfl
    code_result := fun _ => rfl
    result_bound := Nat.zero_le _
    fresh := fun _ => nofun }

/-- OUT is written only while a command is in flight, so after the first issue. -/
theorem withOut (hb : s.busy = true) {o : Vector Word 10} (ho : validId o.toList = true) : (s.withOut o).Inv :=
  { hi with
    fresh := fun hidle => by simp [hb] at hidle
    out_valid := .inr ho }

/-- A request is for the draw that GENERATE waits for. -/
theorem requested {r : DrawRange} (hb : s.busy = true) (hdec : decode s.pending = .ok .generate)
    (hp : prefixError s = none) (hd : s.drawState = .waiting r) : (s.requested r).Inv := by
  cases hr : s.request with
  | some r' =>
    rw [s.requested_again r r' hr]
    exact hi
  | none =>
    rw [s.requested_first r hr]
    exact
      { hi with
        port_owner := fun _ => ⟨hb, hdec, hp⟩
        request_next := fun r' hr' => Option.some.inj hr' ▸ hd }

/-- An answer that is taken was asked for: its request was for the first draw with no answer. -/
theorem answered (n : Nat) (v : Answer) : (s.answered n v).Inv := by
  rcases s.answered_cases n v with ⟨-, h⟩ | ⟨r, hr, -, h⟩ <;> rw [h]
  · exact hi
  · exact
      { hi with
        port_owner := fun _ => hi.port_owner (.inl (by simp [hr]))
        request_next := fun _ => nofun
        answers_asked := fun _ => ⟨r, by simpa [State.drawState] using hi.request_next r hr⟩
        answers_drawn := List.suffix_append_self_iff.2 hi.answers_drawn }

theorem issued (hb : s.busy = false) (v : Word) : (s.issued v).Inv := by
  obtain ⟨hrequest, hanswers⟩ := hi.port_closed hb
  exact
    { hi with
      busy_done := fun _ => rfl
      fresh := nofun
      port_owner := fun hopen => by simp [hrequest, hanswers] at hopen }

/-- The operands stand only in the clauses on an open port. -/
theorem withOperands (hb : s.busy = false) (e : Vector Nibble 11) (l : Word) (c : Vector Word 10) :
    State.Inv { s with exp := e, len := l, chr := c } := by
  obtain ⟨hrequest, hanswers⟩ := hi.port_closed hb
  exact
    { hi with
      port_owner := fun hopen => by simp [hrequest, hanswers] at hopen
      request_next := fun r hr => by simp [hrequest] at hr
      answers_asked := fun hne => absurd hanswers hne }

theorem writeReg (hb : s.busy = false) (v : Word) (r : Reg) : (s.writeReg v r).Inv := by
  cases r with
  | cmd => exact hi.issued hb v
  | status => exact hi
  | result => exact hi
  | expLo => exact hi.withOperands hb (unpackLo v s.exp) s.len s.chr
  | expHi => exact hi.withOperands hb (unpackHi v s.exp) s.len s.chr
  | len => exact hi.withOperands hb s.exp v s.chr
  | chr k => exact hi.withOperands hb s.exp s.len (s.chr.set k v)
  | out k => exact hi

theorem after_blockTurn {t : State} (h : blockTurn s = .next t) : t.Inv := by
  rcases blockTurn_next s t h with
    ⟨-, rfl⟩ | ⟨hen, ⟨r, hr, rfl⟩ | ⟨e, rfl⟩ | ⟨cs, hp, hd, rfl⟩⟩ | ⟨hb, -, hdec, hp, r, hd, rfl⟩
  · exact hi
  · exact hi.completed hr
  · exact hi.failed e
  · exact (hi.withOut (performEnabled_busy hen) (generated_valid s cs hp hd)).completed (Nat.zero_le _)
  · exact hi.requested hb hdec hp hd

theorem after_hostAccess (a : Access) : (hostAccess a s).Inv := by
  rcases hostAccess_effect a s with ⟨p, resp, h⟩ | ⟨r, v, hb, -, h⟩ <;> rw [h]
  · exact hi.withBus p resp
  · exact (hi.writeReg hb v r).withBus _ _

end State.Inv

/-- `rst` leads to a state that meets the invariant, from any state. -/
theorem State.afterRst_inv (s : State) : s.afterRst.Inv where
  code_defined := Nat.zero_le _
  code_fault hne := absurd rfl hne
  code_result hne := absurd rfl hne
  result_bound := Nat.zero_le _
  busy_done := nofun
  fresh _ _ := ⟨rfl, rfl, rfl, rfl⟩
  out_valid := .inl rfl
  port_owner hopen := by simp [State.reset] at hopen
  request_next _ := nofun
  answers_asked hne := absurd rfl hne
  answers_drawn := List.nil_suffix

/-! ### The events to come, and a clean state (20_memory.md R58, 60_exceptions.md R207) -/

theorem blockTurn_inbox {s t : State} (h : blockTurn s = .next t) : t.inbox = s.inbox := by
  rcases blockTurn_next s t h with ⟨-, rfl⟩ | ⟨-, ⟨r, -, rfl⟩ | ⟨e, rfl⟩ | ⟨cs, -, -, rfl⟩⟩ | ⟨-, -, -, -, r, -, rfl⟩ <;>
    simp

theorem hostAccess_inbox (a : Access) (s : State) : (hostAccess a s).inbox = s.inbox := by
  rcases hostAccess_effect a s with ⟨p, resp, h⟩ | ⟨r, v, -, -, h⟩ <;> rw [h]
  exact s.writeReg_inbox v r

/-- A step takes the next event, if there is one, and leaves the others. -/
theorem step_inbox {s t : State} (h : step s = .next t) : t.inbox = s.inbox.tail := by
  rcases step_cases s t h with
    ⟨hi, h⟩ | ⟨rest, hi, h⟩ | ⟨a, rest, hi, rfl⟩ | ⟨n, v, rest, hi, rfl⟩ | ⟨rest, hi, rfl⟩
  · rw [blockTurn_inbox h, hi, List.tail_nil]
  · rw [blockTurn_inbox h, hi, State.withInbox_inbox, List.tail_cons]
  · rw [hostAccess_inbox, hi, State.withInbox_inbox, List.tail_cons]
  · rw [State.answered_inbox, hi, State.withInbox_inbox, List.tail_cons]
  · rw [State.afterRst_inbox, hi, State.withInbox_inbox, List.tail_cons]

theorem State.resetFree_next_ne_reset {s : State} (hfree : s.resetFree = true) (rest : List Event) :
    s.inbox ≠ .reset :: rest := by
  intro hi
  simp [State.resetFree, hi] at hfree

theorem step_resetFree {s t : State} (hfree : s.resetFree = true) (h : step s = .next t) : t.resetFree = true := by
  rw [State.resetFree, List.all_eq_true] at hfree ⊢
  rw [step_inbox h]
  exact fun e he => hfree e (List.mem_of_mem_tail he)

theorem State.wellBehaved_iff (s : State) : s.wellBehaved = true ↔ s.fault = false ∧ s.proto = false := by
  simp [State.wellBehaved]

end Sys2Proof.Machine

/-! Proofs of the statements on errors and the invariant (60_exceptions.md). -/

namespace Sys2Proof.Machine

/-! ### The invariant -/

/-- Settles O51: each event is an update that keeps the invariant. -/
theorem everyStepKeepsTheInvariant : Obligations.EveryStepKeepsTheInvariant := by
  intro s t hi h
  rcases step_cases s t h with ⟨-, h⟩ | ⟨rest, -, h⟩ | ⟨a, rest, -, rfl⟩ | ⟨n, v, rest, -, rfl⟩ | ⟨rest, -, rfl⟩
  · exact hi.after_blockTurn h
  · exact (hi.withInbox rest).after_blockTurn h
  · exact (hi.withInbox rest).after_hostAccess a
  · exact (hi.withInbox rest).answered n v
  · exact (s.withInbox rest).afterRst_inv

/-! ### Errors over a run -/

/-- FAULT and PROTO fall only at a reset, so with none to come a clean state had a clean one before it. -/
theorem step_wellBehaved {s t : State} (hfree : s.resetFree = true) (h : step s = .next t) (ht : t.wellBehaved = true) :
    s.wellBehaved = true := by
  obtain ⟨htfault, htproto⟩ := t.wellBehaved_iff.1 ht
  obtain ⟨hsteps, -⟩ := faultIsSetByErrorCommitsOnly
  obtain ⟨-, -, hfaultfall⟩ := hsteps s t h
  obtain ⟨-, hprotofall⟩ := protoIsSetByBadAccessesOnly s t h
  refine s.wellBehaved_iff.2 ⟨Bool.eq_false_iff.2 fun hfault => ?_, Bool.eq_false_iff.2 fun hproto => ?_⟩
  · obtain ⟨rest, hreset⟩ := hfaultfall hfault htfault
    exact State.resetFree_next_ne_reset hfree rest hreset
  · obtain ⟨rest, hreset⟩ := hprotofall hproto htproto
    exact State.resetFree_next_ne_reset hfree rest hreset

/-- A run with no reset to come has none to come at its end, and a clean end had a clean start. -/
theorem core_run_wellBehaved {k : Nat} {s u : State} (hfree : s.resetFree = true) (h : core.run k s = .next u) :
    u.resetFree = true ∧ (u.wellBehaved = true → s.wellBehaved = true) := by
  induction k generalizing s with
  | zero =>
    obtain rfl : s = u := Host.Outcome.next.inj h
    exact ⟨hfree, id⟩
  | succ k ih =>
    obtain ⟨t, hs, ht⟩ := core_run_succ_next h
    obtain ⟨hufree, hback⟩ := ih (step_resetFree hfree hs) ht
    exact ⟨hufree, fun hu => step_wellBehaved hfree hs (hback hu)⟩

/-- Settles O43: each part of the run is clean at its start if it is at its end. -/
theorem cleanEndMeansNoErrorInTheRun : Obligations.CleanEndMeansNoErrorInTheRun := by
  intro k m s u t hfree hsu hut ht
  obtain ⟨hufree, hs⟩ := core_run_wellBehaved hfree hsu
  obtain ⟨-, hu⟩ := core_run_wellBehaved hufree hut
  exact ⟨hu ht, hs (hu ht)⟩

/-! ### Commits -/

/-- Settles O27: both commits are frames by their definitions, and GENERATE's success is one commit with OUT. -/
theorem commitsWriteTheirRecord : Obligations.CommitsWriteTheirRecord := by
  refine ⟨fun e s => ⟨_, rfl, s.failed_commitsError e, rfl, e.code_range⟩, fun r s => ⟨_, rfl, s.completed_commitsOk r⟩,
    fun s t hb h hidle hcode => ?_⟩
  obtain ⟨hp, cs, hd, rfl⟩ := exec_generate_success hb h hidle hcode
  exact ⟨s.withOut_completed_commitsOk _ 0, generated_valid s cs ((prefixError_eq_none_iff s).2 hp) hd⟩

end Sys2Proof.Machine

/-! SUPPORT. The facts that the proofs about reset and the end of a run share: what a register reads after reset, the reset
operands, a property that every step keeps, the requests a state can still have answered, and one step of an ended run. -/

namespace Sys2Proof.Machine

/-! ### Reset (70_reset_and_hazards.md R230 to R232) -/

theorem State.reset_readReg (r : Reg) : State.reset.readReg r = 0 := by
  cases r with
  | chr k => exact Vector.getElem_replicate k.isLt
  | out k => exact Vector.getElem_replicate k.isLt
  | _ => rfl

theorem State.afterRst_readReg (s : State) (r : Reg) : s.afterRst.readReg r = State.reset.readReg r := by
  cases r <;> rfl

theorem step_reset {s : State} {rest : List Event} (hi : s.inbox = .reset :: rest) :
    step s = .next (s.withInbox rest).afterRst :=
  step_cons s _ rest hi

/-! ### The reset operands (70_reset_and_hazards.md R231) -/

theorem State.reset_exp_digits (i : Fin 11) : State.reset.exp[i].toNat ≤ 9 := by
  revert i; decide

theorem State.reset_chr_not_upper : ¬ UpperCode State.reset.chr[0] := fun h => absurd h.1 (by decide)

/-- With LEN 0 there is no supplied character to refuse (43_id_generator.md R171). -/
theorem State.reset_goodPrefix : GoodPrefix State.reset :=
  ⟨Nat.zero_le _, nofun, fun k _ hk => absurd hk (Nat.not_lt_zero k)⟩

/-! ### A property over a run -/

/-- What every step keeps holds at the end of a run if it holds at its start. -/
theorem core_run_keeps {P : State → Prop} (hstep : ∀ s t, P s → step s = .next t → P t) {k : Nat} {s u : State} (hs : P s)
    (h : core.run k s = .next u) : P u := by
  induction k generalizing s with
  | zero => exact Host.Outcome.next.inj h ▸ hs
  | succ k ih =>
    obtain ⟨t, hst, htu⟩ := core_run_succ_next h
    exact ih (hstep s t hs hst) htu

/-! ### Requests sent before a moment (70_reset_and_hazards.md R232; log 18) -/

/-- The first `m` requests have been sent and none of them is in flight. -/
structure State.Closed (m : Nat) (s : State) : Prop where
  sent : m ≤ s.sent
  request : s.request = none ∨ m < s.sent

/-- A request in flight after a step was in flight before it, or it is a new one. -/
theorem State.Closed.after_step {m : Nat} {s t : State} (hs : s.Closed m) (h : step s = .next t) : t.Closed m := by
  obtain ⟨hsent, hport⟩ := hs
  obtain ⟨hmono, hnone | ⟨hsame, hsentsame⟩ | hnew⟩ := step_sent s t h
  · exact ⟨hsent.trans hmono, .inl hnone⟩
  · exact ⟨hsent.trans hmono, hsame ▸ hsentsame ▸ hport⟩
  · exact ⟨hsent.trans hmono, .inr (Nat.lt_of_le_of_lt hsent hnew)⟩

theorem State.Closed.ignores {m n : Nat} {s : State} (hs : s.Closed m) (hn : n ≤ m) : s.request = none ∨ n ≠ s.sent :=
  hs.request.imp_right fun h => (Nat.lt_of_le_of_lt hn h).ne

theorem State.afterRst_closed (s : State) : s.afterRst.Closed s.sent := ⟨Nat.le_refl _, .inl rfl⟩

/-! ### The end of a run (70_reset_and_hazards.md R241; log 19) -/

/-- All that a step of an ended run can do: to take the next event and change nothing, or to reset. -/
theorem step_runEnded_cases {s t : State} (hi : s.Inv) (hend : s.runEnded = true) (h : step s = .next t) :
    (∃ l, t = s.withInbox l) ∨ (∃ rest, s.inbox = .reset :: rest ∧ t = (s.withInbox rest).afterRst) := by
  obtain ⟨hevents, hb⟩ := s.runEnded_iff.1 hend
  rcases step_cases s t h with ⟨-, h⟩ | ⟨rest, -, h⟩ | ⟨a, rest, hin, -⟩ | ⟨n, v, rest, -, rfl⟩ | ⟨rest, hin, ht⟩
  · obtain rfl := Host.Outcome.next.inj ((blockTurn_idle hb).symm.trans h)
    exact .inl ⟨s.inbox, rfl⟩
  · obtain rfl := Host.Outcome.next.inj ((blockTurn_idle (s := s.withInbox rest) hb).symm.trans h)
    exact .inl ⟨rest, rfl⟩
  · have hnot := hevents (.access a) (hin ▸ List.mem_cons_self)
    exact nomatch hnot
  · obtain ⟨hrequest, -⟩ := hi.port_closed hb
    exact .inl ⟨rest, State.answered_ignored (s.withInbox rest) n v (.inl hrequest)⟩
  · exact .inr ⟨rest, hin, ht⟩

/-- No step brings new accesses, so a run whose block stays idle stays ended. -/
theorem step_runEnded {s t : State} (hend : s.runEnded = true) (h : step s = .next t) (hb : t.busy = false) :
    t.runEnded = true := by
  obtain ⟨hevents, -⟩ := s.runEnded_iff.1 hend
  refine t.runEnded_iff.2 ⟨fun e he => hevents e ?_, hb⟩
  rw [step_inbox h] at he
  exact List.mem_of_mem_tail he

theorem State.withInbox_sameObservation (s : State) (l : List Event) : SameObservation s (s.withInbox l) :=
  ⟨s.withInbox_readReg l, rfl⟩

end Sys2Proof.Machine

/-! Proofs of the statements on reset and hazards (70_reset_and_hazards.md). -/

namespace Sys2Proof.Machine

/-! ### GENERATE between its draws -/

/-- Settles O20: the draws come to the first open one, and its request is sent unless one is in flight. -/
theorem generateWaitsForItsNextDraw : Obligations.GenerateWaitsForItsNextDraw := by
  intro s hp hopen hrange
  have hwaits := exec_generate_waiting hp (drawState_waiting hopen hrange)
  refine ⟨fun hnone => ?_, fun r hr => ?_⟩
  · rw [hwaits, s.requested_first _ hnone]
  · rw [hwaits, s.requested_again _ r hr]

/-! ### Reset -/

/-- Settles O47: `rst` leaves no request in flight, so the answer that comes next is ignored. -/
theorem rstZeroesEverythingAndDropsTheCommand : Obligations.RstZeroesEverythingAndDropsTheCommand := by
  intro s rest hi
  refine ⟨_, step_reset hi, fun r => ?_, rfl, rfl, rfl, rfl, fun n v rest' hrest => ?_⟩
  · rw [State.afterRst_readReg, State.reset_readReg]
  · obtain ⟨hignored, -⟩ := answerIsTakenOnlyByARequest (s.withInbox rest).afterRst n v rest' hrest
    exact hignored (.inl rfl)

/-- Settles O53: after `rst` the requests sent before it are closed, which every step keeps. -/
theorem withdrawnRequestIsNeverAnswered : Obligations.WithdrawnRequestIsNeverAnswered := by
  intro s t u k n v rest rest' hi hst hrun hn hanswer
  obtain rfl := Host.Outcome.next.inj ((step_reset hi).symm.trans hst)
  have hclosed : u.Closed s.sent :=
    core_run_keeps (fun _ _ hs => hs.after_step) (s.withInbox rest).afterRst_closed hrun
  obtain ⟨hignored, -⟩ := answerIsTakenOnlyByARequest u n v rest' hanswer
  exact hignored (hclosed.ignores hn)

/-- Settles O48: the reset operands are eleven digits 0, no letter, no string of ten and no supplied character for GENERATE. -/
theorem resetOperandsAreWellDefined : Obligations.ResetOperandsAreWellDefined := by
  have hgenerate := exec_generate_waiting State.reset_goodPrefix
    (drawState_waiting (by decide) (fun _ hj => absurd hj (Nat.not_lt_zero _)))
  exact ⟨State.reset_readReg,
    ⟨_, exec_validate State.reset, rfl, rfl⟩,
    ⟨_, exec_wsum_digits State.reset_exp_digits, rfl, rfl⟩,
    ⟨_, exec_check_digits State.reset_exp_digits, rfl, rfl⟩,
    ⟨_, exec_solve_digits fun i _ => State.reset_exp_digits i, rfl, rfl⟩,
    ⟨_, exec_lookup_not_upper State.reset_chr_not_upper, rfl, rfl⟩,
    hgenerate⟩

/-- Settles O49. -/
theorem accessDuringResetIsRefused : Obligations.AccessDuringResetIsRefused := fun s _ rest hi => step_cons s _ rest hi

/-! ### The invariant and the end of a run -/

/-- Settles O50: the reset state is what `rst` makes of it. -/
theorem resetMeetsTheInvariant : Obligations.ResetMeetsTheInvariant := State.reset.afterRst_inv

/-- Settles O52: a step of an ended run takes an event and changes nothing else, or it is a reset, which leaves the block
idle too. -/
theorem endedRunKeepsItsObservation : Obligations.EndedRunKeepsItsObservation := by
  intro s t hi hend h
  rcases step_runEnded_cases hi hend h with ⟨l, rfl⟩ | ⟨rest, hin, rfl⟩
  · obtain ⟨-, hb⟩ := s.runEnded_iff.1 hend
    exact ⟨step_runEnded hend h hb, .inl (s.withInbox_sameObservation l)⟩
  · exact ⟨step_runEnded hend h rfl, .inr ⟨rest, hin⟩⟩

end Sys2Proof.Machine
